-- ==== Sys2Proof/Word.lean ====
section
/-! DEFINITION. The word types of the block and their plainest arithmetic. -/

namespace Sys2Proof

/-- The element of every storage of the block and of every message (spec/20_memory.md R44). -/
abbrev Byte := BitVec 8

/-- A position of the scan frame as the sequencer holds it: 7 bits (spec/10_state.md R16). -/
abbrev Position := BitVec 7

/-- A sample of the three scan lines, `{sync, data, clock}` with the clock in bit 0 (spec/10_state.md R14). -/
abbrev Lines := BitVec 3

/-- `IN5`, the five input levels of one iteration, `{r, p, s, d, c}` (spec/30_encoding.md R67). -/
abbrev In5 := BitVec 5

/-- `zext_8` of one bit (spec/00_scope.md R8). -/
def bitByte (b : Bool) : Byte := if b then 1 else 0

end Sys2Proof
end

