-- ==== Sys2Proof/Syntax.lean ====
section
/-! DEFINITION. The operations of the block: one constructor for each row of spec/opcode_table.json, with the
bits of its select word, or the parameters of its rule's pseudocode, as operands. -/

namespace Sys2Proof

/-- The operations of midi4cx3 CORE. -/
inductive Instr where
  -- MSG24 (spec/30_encoding.md R61)
  /-- NOTE_ON, `90 n 40` (R62). -/
  | noteOn (n : BitVec 7)
  /-- NOTE_OFF, `80 n 00` (R63). -/
  | noteOff (n : BitVec 7)
  /-- CC_DAMPER for P = 1, `B0 40 7F` (R64). -/
  | ccDamperReleased
  /-- CC_DAMPER for P = 0, `B0 40 00` (R64). -/
  | ccDamperPressed
  -- SEL9 (R69): `f` is FALL[2], `r` is RISE[0], `p` the free bits of POS
  /-- SYNC_EXIT, `1 r 0000000`. -/
  | syncExit (r : Bool)
  /-- SYNC_HOLD, `0 r 0000000`. -/
  | syncHold (r : Bool)
  /-- NO_EDGE, `f 0 ppppppp`. -/
  | noEdge (f : Bool) (p : Position)
  /-- CAPTURE_PEDAL, `f 1 1000000`. -/
  | capturePedal (f : Bool)
  /-- CAPTURE_FILLER, `f 1 010000p`. -/
  | captureFiller (f : Bool) (p : BitVec 1)
  /-- CAPTURE_KEY_HI, `f 1 01ppppp`. -/
  | captureKeyHi (f : Bool) (p : BitVec 5)
  /-- CAPTURE_KEY_LO, `f 1 00ppppp`. -/
  | captureKeyLo (f : Bool) (p : BitVec 5)
  /-- UNREACHABLE_POS, `f 1 1pppppp`. -/
  | unreachablePos (f : Bool) (p : BitVec 6)
  -- POS7 (R69)
  /-- BLOCK_SNAPSHOT at the first position of block `b`, POS = 8 b. -/
  | blockSnapshotBlock (b : Fin 9)
  /-- BLOCK_SNAPSHOT at POS 1, the first serviced position of block 0. -/
  | blockSnapshotFirst
  -- CAPSEL3 `{k, x, e}` (R69)
  /-- KEY_TRANSITION, `1 1 e`. -/
  | keyTransition (e : Bool)
  /-- PEDAL_SLOT, `0 x 1`. -/
  | pedalSlot (x : Bool)
  /-- IDLE_MARK at a key position whose bit is unchanged, `1 0 e`. -/
  | idleMarkKey (e : Bool)
  /-- IDLE_MARK at a filler position, `0 x 0`. -/
  | idleMarkFiller (x : Bool)
  -- TXSEL5 `{EVENT, IDLE, POS != 0, TX_READY, RD != WR}` (R69)
  /-- TX_BYTE, `1 1 1 1 1`. -/
  | txByte
  /-- TX_EVENT_CLEAR, `1 1 1 1 0`. -/
  | txEventClear
  /-- TX_NOT_READY, `1 1 1 0 ne`. -/
  | txNotReady (ne : Bool)
  /-- TX_GATED, every other word. -/
  | txGated (event idle posNz ready ne : Bool)
  -- ALWAYS: operations that no bit pattern selects
  /-- ITERATION on the input levels `w`, one line `IN c d s p r` of the trace language (R73, R80). -/
  | iteration (w : In5)
  /-- SAMPLE (R81). -/
  | sample (w : In5)
  /-- EDGE_DETECT of the sample `cur` against PREV (R82). -/
  | edgeDetect (cur : Lines)
  /-- EDGE_SERVICE (R84). -/
  | edgeService (d ped : Bool)
  /-- CAPTURE (R100). -/
  | capture (p : Position) (d ped : Bool)
  /-- BIT_STORE (R102). -/
  | bitStore (b : Fin 9) (i : Fin 8) (d : Bool)
  /-- ADVANCE (R85). -/
  | advance
  /-- PREV_UPDATE (R87). -/
  | prevUpdate (cur : Lines)
  /-- TX_SCHED (R155). -/
  | txSched (r : Bool)
  /-- NOTE (R120); T is the instance's. -/
  | note (p : Position)
  /-- MSG_NOTE_ON (R130). -/
  | msgNoteOn (n : BitVec 7)
  /-- MSG_NOTE_OFF (R131). -/
  | msgNoteOff (n : BitVec 7)
  /-- MSG_CC_DAMPER (R132). -/
  | msgCcDamper (ped : Bool)
  /-- ENQUEUE_MSG (R133). -/
  | enqueueMsg (b0 b1 b2 : Byte)
  /-- ENQUEUE (R144). -/
  | enqueue (v : Byte)
  /-- DEQUEUE (R145). -/
  | dequeue
  /-- VALID_KEY (R106). -/
  | validKey (p : Position)
  /-- COUNT (R141). -/
  | count
  /-- FREE (R141). -/
  | free
  /-- FULL (R142). -/
  | full
  /-- EMPTY (R143). -/
  | empty
deriving DecidableEq, Repr

/-- The rows of the SEL9 table, in its order (spec/30_encoding.md R69). -/
inductive SamplerOp where
  | syncExit (r : Bool)
  | syncHold (r : Bool)
  | noEdge (f : Bool) (p : Position)
  | capturePedal (f : Bool)
  | captureFiller (f : Bool) (p : BitVec 1)
  | captureKeyHi (f : Bool) (p : BitVec 5)
  | captureKeyLo (f : Bool) (p : BitVec 5)
  | unreachablePos (f : Bool) (p : BitVec 6)
deriving DecidableEq, Repr

/-- The rows of the POS7 table (R69). -/
inductive SnapshotOp where
  | block (b : Fin 9)
  | first
deriving DecidableEq, Repr

/-- The rows of the CAPSEL3 table (R69). -/
inductive CaptureArm where
  | keyTransition (e : Bool)
  | pedalSlot (x : Bool)
  | idleMarkKey (e : Bool)
  | idleMarkFiller (x : Bool)
deriving DecidableEq, Repr

/-- The rows of the TXSEL5 table (R69). -/
inductive TxOutcome where
  | txByte
  | txEventClear
  | txNotReady (ne : Bool)
  | txGated (event idle posNz ready ne : Bool)
deriving DecidableEq, Repr

/-- A row of the SEL9 table as an operation. -/
def SamplerOp.instr : SamplerOp → Instr
  | .syncExit r => .syncExit r
  | .syncHold r => .syncHold r
  | .noEdge f p => .noEdge f p
  | .capturePedal f => .capturePedal f
  | .captureFiller f p => .captureFiller f p
  | .captureKeyHi f p => .captureKeyHi f p
  | .captureKeyLo f p => .captureKeyLo f p
  | .unreachablePos f p => .unreachablePos f p

/-- A row of the POS7 table as an operation. -/
def SnapshotOp.instr : SnapshotOp → Instr
  | .block b => .blockSnapshotBlock b
  | .first => .blockSnapshotFirst

/-- A row of the CAPSEL3 table as an operation. -/
def CaptureArm.instr : CaptureArm → Instr
  | .keyTransition e => .keyTransition e
  | .pedalSlot x => .pedalSlot x
  | .idleMarkKey e => .idleMarkKey e
  | .idleMarkFiller x => .idleMarkFiller x

/-- A row of the TXSEL5 table as an operation. -/
def TxOutcome.instr : TxOutcome → Instr
  | .txByte => .txByte
  | .txEventClear => .txEventClear
  | .txNotReady ne => .txNotReady ne
  | .txGated event idle posNz ready ne => .txGated event idle posNz ready ne

end Sys2Proof
end

