-- ==== Sys2Proof/Decode.lean ====
section
/-! DEFINITION. The decoder, one function per format of spec/30_encoding.md (R60 to R69), and the encoder.
A select word is formed inside the block and its format is known by where it is formed; so decoding takes the
format beside the bytes. -/

namespace Sys2Proof

/-- The formats of the words (R60, R69); IN5 is the operand word of ITERATION (R67, R73). -/
inductive Format where
  | msg24
  | sel9
  | pos7
  | capsel3
  | txsel5
  | in5
deriving DecidableEq, Repr

/-- Why the decoder rejects. -/
inductive Reject where
  /-- The format's words have another number of bytes. -/
  | wrongLength
  /-- A bit above the word's width is set. -/
  | spareBitSet
  /-- A 24-bit word that is none of the three messages (R70 (c)). -/
  | noMessage
  /-- A position at which no BLOCK_SNAPSHOT runs (R101). -/
  | noSnapshot
deriving DecidableEq, Repr

/-- MSG24 (R62, R63, R64): the masks and matches of the table. -/
def decodeMsg24 (w : BitVec 24) : Option Instr :=
  if w &&& 0xFF80FF = 0x900040 then some (.noteOn (w.extractLsb' 8 7))
  else if w &&& 0xFF80FF = 0x800000 then some (.noteOff (w.extractLsb' 8 7))
  else if w = 0xB0407F then some .ccDamperReleased
  else if w = 0xB04000 then some .ccDamperPressed
  else none

/-- SEL9 (R69): the first row that matches, reading down. Bit 8 is FALL[2], bit 7 RISE[0], bits 6..0 POS. -/
def decodeSel9 (w : BitVec 9) : SamplerOp :=
  if w &&& 0x17F = 0x100 then .syncExit (w.getLsbD 7)
  else if w &&& 0x17F = 0x000 then .syncHold (w.getLsbD 7)
  else if w &&& 0x080 = 0x000 then .noEdge (w.getLsbD 8) (w.extractLsb' 0 7)
  else if w &&& 0x0FF = 0x0C0 then .capturePedal (w.getLsbD 8)
  else if w &&& 0x0FE = 0x0A0 then .captureFiller (w.getLsbD 8) (w.extractLsb' 0 1)
  else if w &&& 0x0E0 = 0x0A0 then .captureKeyHi (w.getLsbD 8) (w.extractLsb' 0 5)
  else if w &&& 0x0E0 = 0x080 then .captureKeyLo (w.getLsbD 8) (w.extractLsb' 0 5)
  else .unreachablePos (w.getLsbD 8) (w.extractLsb' 0 6)

/-- POS7 (R69, R101): where BLOCK_SNAPSHOT runs, at 1 and at 8, 16, ..., 64. Position 0 matches the pattern
`pppp000` but is never serviced, and 72, 80, ... are no positions (log entry 17). -/
def decodePos7 (p : Position) : Option SnapshotOp :=
  if p &&& 0x7F = 0x01 then some .first
  else if p &&& 0x07 = 0x00 then
    if p = 0 then none
    else if h : p.toNat / 8 < 9 then some (.block ⟨p.toNat / 8, h⟩) else none
  else none

/-- CAPSEL3 (R69), bits `{k, x, e}`. -/
def decodeCapsel3 (w : BitVec 3) : CaptureArm :=
  if w &&& 0x6 = 0x6 then .keyTransition (w.getLsbD 0)
  else if w &&& 0x5 = 0x1 then .pedalSlot (w.getLsbD 1)
  else if w &&& 0x6 = 0x4 then .idleMarkKey (w.getLsbD 0)
  else .idleMarkFiller (w.getLsbD 1)

/-- TXSEL5 (R69): the first row that matches, reading down. -/
def decodeTxsel5 (w : BitVec 5) : TxOutcome :=
  if w = 0x1F then .txByte
  else if w = 0x1E then .txEventClear
  else if w &&& 0x1E = 0x1C then .txNotReady (w.getLsbD 0)
  else .txGated (w.getLsbD 4) (w.getLsbD 3) (w.getLsbD 2) (w.getLsbD 1) (w.getLsbD 0)

/-- IN5 (R67, R73): every word is one iteration. -/
def decodeIn5 (w : In5) : Instr := .iteration w

/-- The operation a word of the given format stands for, from its bytes. MSG24 stands first byte first, as it is
enqueued and sent (R61); of a select word of more than 8 bits the low byte stands first (log entry 18). -/
def decode (fmt : Format) (bytes : List Byte) : Except Reject Instr :=
  match fmt, bytes with
  | .msg24, [b0, b1, b2] =>
    match decodeMsg24 (b0 ++ b1 ++ b2) with
    | some i => .ok i
    | none => .error .noMessage
  | .sel9, [lo, hi] =>
    if hi &&& 0xFE = 0 then .ok (decodeSel9 (hi.extractLsb' 0 1 ++ lo)).instr else .error .spareBitSet
  | .pos7, [b] =>
    if b &&& 0x80 = 0 then
      match decodePos7 (b.extractLsb' 0 7) with
      | some o => .ok o.instr
      | none => .error .noSnapshot
    else .error .spareBitSet
  | .capsel3, [b] =>
    if b &&& 0xF8 = 0 then .ok (decodeCapsel3 (b.extractLsb' 0 3)).instr else .error .spareBitSet
  | .txsel5, [b] =>
    if b &&& 0xE0 = 0 then .ok (decodeTxsel5 (b.extractLsb' 0 5)).instr else .error .spareBitSet
  | .in5, [b] =>
    if b &&& 0xE0 = 0 then .ok (decodeIn5 (b.extractLsb' 0 5)) else .error .spareBitSet
  | _, _ => .error .wrongLength

/-- The bytes of a word of `fmt` whose bits are `w`, numbered as the opcode table numbers them. -/
def Format.bytes (fmt : Format) (w : Nat) : List Byte :=
  match fmt with
  | .msg24 => [BitVec.ofNat 8 (w / 65536), BitVec.ofNat 8 (w / 256), BitVec.ofNat 8 w]
  | .sel9 => [BitVec.ofNat 8 w, BitVec.ofNat 8 (w / 256)]
  | .pos7 => [BitVec.ofNat 8 w]
  | .capsel3 => [BitVec.ofNat 8 w]
  | .txsel5 => [BitVec.ofNat 8 w]
  | .in5 => [BitVec.ofNat 8 w]

/-- The SEL9 word of a position and its two edge bits. -/
def sel9Word (f r : Bool) (p : Position) : BitVec 9 := BitVec.ofBool f ++ BitVec.ofBool r ++ p

/-- The CAPSEL3 word. -/
def capsel3Word (k x e : Bool) : BitVec 3 := BitVec.ofBool k ++ BitVec.ofBool x ++ BitVec.ofBool e

/-- The TXSEL5 word. -/
def txsel5Word (event idle posNz ready ne : Bool) : BitVec 5 :=
  BitVec.ofBool event ++ BitVec.ofBool idle ++ BitVec.ofBool posNz ++ BitVec.ofBool ready ++ BitVec.ofBool ne

/-- Position 34..63 (32 and 33 with `p` 0 and 1) from the free bits of its pattern `01ppppp` (R68). -/
def keyHiPosition (p : BitVec 5) : Position := 0b01#2 ++ p

/-- Position 1..31 from the free bits of its pattern `00ppppp` (R68). -/
def keyLoPosition (p : BitVec 5) : Position := 0b00#2 ++ p

/-- Position 32 or 33 from the free bit of its pattern `010000p` (R68). -/
def fillerPosition (p : BitVec 1) : Position := 0b010000#6 ++ p

/-- Position 64 (R68). -/
def pedalPosition : Position := 0b1000000#7

/-- A value above 64 from the free bits of the pattern `1pppppp` (R68). -/
def beyondPosition (p : BitVec 6) : Position := 0b1#1 ++ p

/-- The word of an operation that has one: its format and its bits as a number. The other ALWAYS rows have none:
the spec selects them by the operation that contains them. -/
def encodeWord : Instr → Option (Format × Nat)
  | .noteOn n => some (.msg24, (0x90#8 ++ 0#1 ++ n ++ 0x40#8).toNat)
  | .noteOff n => some (.msg24, (0x80#8 ++ 0#1 ++ n ++ 0x00#8).toNat)
  | .ccDamperReleased => some (.msg24, 0xB0407F)
  | .ccDamperPressed => some (.msg24, 0xB04000)
  | .syncExit r => some (.sel9, (sel9Word true r 0).toNat)
  | .syncHold r => some (.sel9, (sel9Word false r 0).toNat)
  | .noEdge f p => some (.sel9, (sel9Word f false p).toNat)
  | .capturePedal f => some (.sel9, (sel9Word f true pedalPosition).toNat)
  | .captureFiller f p => some (.sel9, (sel9Word f true (fillerPosition p)).toNat)
  | .captureKeyHi f p => some (.sel9, (sel9Word f true (keyHiPosition p)).toNat)
  | .captureKeyLo f p => some (.sel9, (sel9Word f true (keyLoPosition p)).toNat)
  | .unreachablePos f p => some (.sel9, (sel9Word f true (beyondPosition p)).toNat)
  | .blockSnapshotBlock b => some (.pos7, 8 * b.val)
  | .blockSnapshotFirst => some (.pos7, 1)
  | .keyTransition e => some (.capsel3, (capsel3Word true true e).toNat)
  | .pedalSlot x => some (.capsel3, (capsel3Word false x true).toNat)
  | .idleMarkKey e => some (.capsel3, (capsel3Word true false e).toNat)
  | .idleMarkFiller x => some (.capsel3, (capsel3Word false x false).toNat)
  | .txByte => some (.txsel5, 0x1F)
  | .txEventClear => some (.txsel5, 0x1E)
  | .txNotReady ne => some (.txsel5, (txsel5Word true true true false ne).toNat)
  | .txGated event idle posNz ready ne => some (.txsel5, (txsel5Word event idle posNz ready ne).toNat)
  | .iteration w => some (.in5, w.toNat)
  | .sample _ => none
  | .edgeDetect _ => none
  | .edgeService _ _ => none
  | .capture _ _ _ => none
  | .bitStore _ _ _ => none
  | .advance => none
  | .prevUpdate _ => none
  | .txSched _ => none
  | .note _ => none
  | .msgNoteOn _ => none
  | .msgNoteOff _ => none
  | .msgCcDamper _ => none
  | .enqueueMsg _ _ _ => none
  | .enqueue _ => none
  | .dequeue => none
  | .validKey _ => none
  | .count => none
  | .free => none
  | .full => none
  | .empty => none

/-- The encoder: the format and the bytes of an operation's word. -/
def encode (i : Instr) : Option (Format × List Byte) :=
  match encodeWord i with
  | some (fmt, w) => some (fmt, fmt.bytes w)
  | none => none

/-- Which format a word of the opcode table is read in, from its length and value alone. The four one-byte
formats share their values (0x01 is both PEDAL_SLOT and BLOCK_SNAPSHOT; 0x00 is TX_GATED, IDLE_MARK and a position):
the table tells them apart by the row, a bare word cannot. DESIGN CHOICE, log entry 6: 0 and 0x1C..0x1F and what
is left below 128 are TXSEL5, 1..7 CAPSEL3, the multiples of 8 POS7; a byte with bit 7 set can only be the low byte of
a SEL9 word whose bit 8 is 0; a row of no bits is IN5. -/
def tableFormat (nbits w : Nat) : Option Format :=
  match nbits with
  | 0 => some .in5
  | 8 =>
    if w = 0 then some .txsel5
    else if w < 8 then some .capsel3
    else if 128 ≤ w then some .sel9
    else if w % 8 = 0 then some .pos7
    else some .txsel5
  | 16 => some .sel9
  | 24 => some .msg24
  | _ => none

/-- The operation the decoder reads from a word of the opcode table (host interface). -/
def decodeTableWord (nbits w : Nat) : Option Instr :=
  match tableFormat nbits w with
  | none => none
  | some fmt =>
    if w < 2 ^ nbits then
      match decode fmt (fmt.bytes w) with
      | .ok i => some i
      | .error _ => none
    else none

end Sys2Proof
end

