-- ==== Sys2Proof/Config.lean ====
section
/-! DEFINITION. What is fixed for an instance of the block (spec/00_scope.md R7) and the free values: what the
spec leaves open and the model does not choose. -/

namespace Sys2Proof

/-- Where the pedal bit comes from: the PEDAL port or the data line (spec/00_scope.md R7, D4). -/
inductive PedalSource where
  | pedalLine
  | dataLine
deriving DecidableEq, Repr

/-- The parameters of an instance (spec/00_scope.md R7). They are plain data carried in the state, which no
operation writes (spec/10_state.md R23, R29), so every statement about a state holds for every instance.
DESIGN CHOICE, log entry 2. -/
structure Config where
  /-- CAP, bytes in the queue buffer; CAP = 2^k, k >= 2 (spec/44_output_queue.md R140). -/
  cap : Nat
  /-- TRANSPOSE, written T (spec/10_state.md R23). -/
  transpose : Int
  /-- PEDAL_SOURCE (D4). -/
  pedalSource : PedalSource
  /-- PEDAL_RESET_SENTINEL (D6). -/
  pedalResetSentinel : Bool
  /-- FIRST_BLOCK_SNAPSHOT: true = a snapshot at POS 1 too (D7). -/
  firstBlockSnapshot : Bool
  /-- SYNC_EXIT_SERVICES_CLOCK (D8). -/
  syncExitServicesClock : Bool
  /-- ENQUEUE_ATOMIC (D15). -/
  enqueueAtomic : Bool
  /-- PEDAL_SETS_EVENT (D16). -/
  pedalSetsEvent : Bool
deriving DecidableEq, Repr

/-- CAP is a power of two and at least 4 (spec/44_output_queue.md R140). -/
abbrev Config.capOk (c : Config) : Prop := 4 ≤ c.cap ∧ 2 ^ Nat.log2 c.cap = c.cap

/-- TRANSPOSE is in the admitted range (spec/42_note_mapper.md R123). -/
abbrev Config.transposeOk (c : Config) : Prop := -36 ≤ c.transpose ∧ c.transpose ≤ 31

/-- The decided value of every switch (spec/00_scope.md R7). -/
abbrev Config.decided (c : Config) : Prop :=
  c.pedalSource = .pedalLine ∧ c.pedalResetSentinel = true ∧ c.firstBlockSnapshot = true ∧
    c.syncExitServicesClock = false ∧ c.enqueueAtomic = true ∧ c.pedalSetsEvent = true

/-- The instance that the reset state holds: the decided switches, and the CAP and TRANSPOSE that the spec's
test vectors use. DESIGN CHOICE, unsafe, log entry 2: the spec gives CAP and TRANSPOSE no value. -/
def Config.base : Config where
  cap := 16
  transpose := 0
  pedalSource := .pedalLine
  pedalResetSentinel := true
  firstBlockSnapshot := true
  syncExitServicesClock := false
  enqueueAtomic := true
  pedalSetsEvent := true

/-- What the environment does between two iterations (spec/60_exceptions.md R182): it presents the levels of
the next iteration, or asserts RESET. -/
inductive Stimulus where
  /-- The next iteration runs on these input levels. -/
  | levels (w : In5)
  /-- RESET is asserted and released; no iteration runs meanwhile (spec/70_reset_and_hazards.md R190). -/
  | reset
deriving DecidableEq, Repr, Inhabited

/-- FREE VALUE: what the environment does at a step for which the trace says nothing (spec/93 U7, U8).
Log entry 1, safe. -/
opaque Config.freeStimulus : Nat → Stimulus

/-- FREE VALUE: TX_DATA in a step with TX_WR = 0 (spec/93 U6). Log entry 5. -/
opaque Config.freeTxData : Nat → Byte

/-- FREE VALUE: what a slot of Q that nothing has written since reset reads as (spec/93 U5). Log entry 4, safe. -/
opaque Config.freeQueueByte : Nat → Byte

end Sys2Proof
end

