-- ==== Sys2Proof/Machine/State.lean ====
section
/-! DEFINITION. The state of the block (spec/10_state.md R10), what a step can stop with, and the state after
reset (R30). -/

namespace Sys2Proof.Machine

/-- A message: exactly three bytes, status first (spec/20_memory.md R43). -/
structure Message where
  status : Byte
  data1 : Byte
  data2 : Byte
deriving DecidableEq, Repr, Inhabited

/-- The two silent failure signals (spec/60_exceptions.md R165, R166). A signal transfers no control, saves
nothing and is not an outcome of a step (R171). -/
inductive Signal where
  /-- QueueFull: the message found no room. -/
  | queueFull (m : Message)
  /-- QueueEmpty: a dequeue found nothing. -/
  | queueEmpty
deriving DecidableEq, Repr

/-- The value that an operation run as an instruction of its own returns to its caller. Model's own, log entry 3. -/
inductive Result where
  /-- Nothing was returned. -/
  | nothing
  /-- NOTE: the note number, or no value where the rule defines none (R120). -/
  | note (n : Option Int)
  /-- MSG_NOTE_ON, MSG_NOTE_OFF, MSG_CC_DAMPER. -/
  | message (m : Message)
  /-- ENQUEUE stored its byte. -/
  | ok
  /-- ENQUEUE or DEQUEUE failed. -/
  | fail
  /-- DEQUEUE returned a byte. -/
  | byte (v : Byte)
  /-- VALID_KEY, FULL, EMPTY. -/
  | truth (b : Bool)
  /-- COUNT, FREE. -/
  | number (n : Nat)
deriving DecidableEq, Repr

/-- Values that exist only inside one iteration and are not state of the block (spec/10_state.md R28). They are
fields so that every operation of the table can be run by itself; ITERATION clears them first. Model's own,
log entry 3. -/
structure Wires where
  /-- CUR, the sample of the scan lines (R81). -/
  cur : Lines := 0
  /-- P, the sampled pedal bit (R81). -/
  ped : Bool := false
  /-- R, the sampled ready level (R81). -/
  rdy : Bool := false
  /-- RISE (R82). -/
  rise : Lines := 0
  /-- FALL (R82). -/
  fall : Lines := 0
  /-- The signals raised, oldest first. -/
  signals : List Signal := []
  /-- What the last operation run as an instruction of its own returned. -/
  result : Result := .nothing
deriving DecidableEq, Repr

/-- The queue buffer: the slots written since reset, by rising address. A slot not listed holds no value
(spec/10_state.md R27, log entry 4). -/
abbrev Memory := List Host.Cell

/-- The state. The first ten fields are the complete state of the block (spec/10_state.md R10), then its output
ports (R32), the configuration (R29), and the model's own fields (log entries 1 and 3). -/
structure State where
  /-- POS (R16). -/
  pos : Position
  /-- KT (R11). -/
  kt : Vector Byte 9
  /-- SNAP (R12). -/
  snap : Byte
  /-- PEDAL_PREV (R13). -/
  pedalPrev : Byte
  /-- PREV (R14). -/
  prev : Lines
  /-- EVENT (R20). -/
  event : Bool
  /-- IDLE (R21). -/
  idle : Bool
  /-- WR (R22). -/
  wr : Nat
  /-- RD (R22). -/
  rd : Nat
  /-- Q (R27). -/
  q : Memory
  /-- TX_DATA (R32). -/
  txData : Byte
  /-- TX_WR (R32). -/
  txWr : Bool
  /-- CAP, TRANSPOSE and the switches (R29). -/
  cfg : Config
  /-- Model's own: values inside an iteration. -/
  wires : Wires
  /-- Model's own: TXLOG, the bytes handed over, oldest first (R29). -/
  txLog : List Byte
  /-- Model's own: what the environment does next, first move first. -/
  trace : List Stimulus
  /-- Model's own: the number of steps, which the free values are applied to. -/
  tick : Nat
deriving DecidableEq, Repr

/-- Faults. There is none: "A model's step function for this block has no fault outcome"
(spec/60_exceptions.md R167). -/
inductive Fault where
deriving DecidableEq, Repr

/-- Refusals: ill-formed configurations and states (spec/60_exceptions.md R167) and operations run outside the
condition their rule gives. -/
inductive Refusal where
  /-- An operation without a meaning; no arm of `exec` raises it. Safe. -/
  | notModelled (mnemonic : String)
  /-- Every operation, and RESET, when CAP is not a power of two or below 4 (R140, R167). Safe. -/
  | badCapacity
  /-- Every operation, and RESET, when TRANSPOSE is outside -36..31 (R123). Safe. -/
  | badTranspose
  /-- Every operation, and RESET, when POS is above 64, and UNREACHABLE_POS always (R18, R70, log entry 11). Safe. -/
  | unreachablePos
  /-- Every operation, and RESET, when a cursor is not below CAP, which k bits cannot hold (R22, log entry 14). Safe. -/
  | cursorOutOfRange
  /-- CAPTURE and what contains it, at a position outside 1..64 (R100, log entry 15). Safe. -/
  | notAPosition
  /-- KEY_TRANSITION at a position that is no key position, where there is no note (R103, R120, log entry 15).
  Safe. -/
  | notAKeyPosition
deriving DecidableEq, Repr

/-- The reset value of PEDAL_PREV: the all-ones sentinel (R30), or the value 1 of a one-bit cell when
PEDAL_RESET_SENTINEL is false (D6, log entry 9). -/
def resetPedal (c : Config) : Byte := if c.pedalResetSentinel then 0xFF else 0x01

/-- The state after reset (spec/10_state.md R30), on the instance `Config.base` (log entry 2). TX_DATA, which R30
leaves unspecified, is 0x00: DESIGN CHOICE, log entry 5. Q lists no slot: its contents are unspecified. -/
def State.reset : State where
  pos := 0
  kt := Vector.replicate 9 0
  snap := 0
  pedalPrev := resetPedal Config.base
  prev := 0
  event := false
  idle := false
  wr := 0
  rd := 0
  q := []
  txData := 0
  txWr := false
  cfg := Config.base
  wires := {}
  txLog := []
  trace := []
  tick := 0

end Sys2Proof.Machine
end

