-- ==== Sys2Proof/Machine/Operands.lean ====
section
/-! DEFINITION. The constants of spec/00_scope.md R6 and the operands of the operations: the fields of the input
word, of a position and of the sampled values. -/

namespace Sys2Proof.Machine

/-- FRAME_LEN. -/
def frameLen : Nat := 65
/-- NOTE_BASE_LO. -/
def noteBaseLo : Int := 98
/-- NOTE_BASE_HI. -/
def noteBaseHi : Int := 101
/-- STATUS_NOTE_ON. -/
def statusNoteOn : Byte := 0x90
/-- STATUS_NOTE_OFF. -/
def statusNoteOff : Byte := 0x80
/-- STATUS_CC. -/
def statusCc : Byte := 0xB0
/-- VEL_ON. -/
def velOn : Byte := 0x40
/-- VEL_OFF. -/
def velOff : Byte := 0x00
/-- CC_DAMPER, the controller number. -/
def ccDamper : Byte := 0x40
/-- CC_VAL_BIT1: the pedal bit is 1, the pedal released (spec/90_conflicts.md C1). -/
def ccValBit1 : Byte := 0x7F
/-- CC_VAL_BIT0: the pedal bit is 0, the pedal pressed. -/
def ccValBit0 : Byte := 0x00

/-- CUR, IN[2:0] (R67). -/
def inLines (w : In5) : Lines := w.extractLsb' 0 3
/-- DATA, IN[1] (R67). -/
def inData (w : In5) : Bool := w.getLsbD 1
/-- PEDAL, IN[3] (R67). -/
def inPedal (w : In5) : Bool := w.getLsbD 3
/-- TX_READY, IN[4] (R67). -/
def inReady (w : In5) : Bool := w.getLsbD 4

/-- The pedal bit P: the PEDAL port, or CUR[1] with PEDAL_SOURCE = data_line (R81). -/
def pedalBit (c : Config) (w : In5) : Bool :=
  match c.pedalSource with
  | .pedalLine => inPedal w
  | .dataLine => inData w

/-- The sampled data bit D = CUR[1] (R84). -/
def sampledData (s : State) : Bool := s.wires.cur.getLsbD 1

/-- The KT byte of a position, p div 8 (spec/20_memory.md R41). -/
def blockOf (p : Position) : Nat := p.toNat / 8

/-- The bit of a position in its byte, p mod 8 (R41). -/
def bitOf (p : Position) : Nat := p.toNat % 8

/-- The positions that a capture services, 1..64 (R100). -/
abbrev isPosition (p : Position) : Prop := 1 ≤ p.toNat ∧ p.toNat ≤ 64

end Sys2Proof.Machine
end

