-- ==== Sys2Proof/Machine/Ops.lean ====
section
/-! DEFINITION. The named operations over the registers, the key table, the queue buffer, the ports and the
signals, and RESET. No operation reaches a piece of state but through these. -/

namespace Sys2Proof.Machine

/-! Register writes. -/

def setPos (v : Position) (s : State) : State := { s with pos := v }
def setKt (v : Vector Byte 9) (s : State) : State := { s with kt := v }
def setSnap (v : Byte) (s : State) : State := { s with snap := v }
def setPedalPrev (v : Byte) (s : State) : State := { s with pedalPrev := v }
def setPrev (v : Lines) (s : State) : State := { s with prev := v }
def setEvent (v : Bool) (s : State) : State := { s with event := v }
def setIdle (v : Bool) (s : State) : State := { s with idle := v }
def setWr (v : Nat) (s : State) : State := { s with wr := v }
def setRd (v : Nat) (s : State) : State := { s with rd := v }
def setQ (v : Memory) (s : State) : State := { s with q := v }
def setTxData (v : Byte) (s : State) : State := { s with txData := v }
def setTxWr (v : Bool) (s : State) : State := { s with txWr := v }
def setWires (v : Wires) (s : State) : State := { s with wires := v }
def setTxLog (v : List Byte) (s : State) : State := { s with txLog := v }
def setTrace (v : List Stimulus) (s : State) : State := { s with trace := v }
def setTick (v : Nat) (s : State) : State := { s with tick := v }

/-! The key table (spec/20_memory.md R41, R42). -/

/-- KT[b]; 0 for an index above 8, which cannot arise (R44). -/
def ktByte (s : State) (b : Nat) : Byte := s.kt[b]?.getD 0

/-- KT[b] <- v. -/
def setKtByte (b : Nat) (v : Byte) (s : State) : State := setKt (s.kt.setIfInBounds b v) s

/-- The bit of the key table that belongs to a position. -/
def ktBit (s : State) (p : Nat) : Bool := (ktByte s (p / 8)).getLsbD (p % 8)

/-! The queue buffer as memory (spec/20_memory.md R44). -/

/-- The byte a slot holds; none while nothing has written it. -/
def Memory.read (m : Memory) (a : Nat) : Option Byte :=
  match m with
  | [] => none
  | c :: m => if a = c.1 then some c.2 else Memory.read m a

/-- Writes a slot, keeping the addresses rising. -/
def Memory.write (m : Memory) (a : Nat) (v : Byte) : Memory :=
  match m with
  | [] => [(a, v)]
  | c :: m =>
    if a < c.1 then (a, v) :: c :: m
    else if a = c.1 then (a, v) :: m
    else c :: Memory.write m a v

/-- The canonical form: strictly rising addresses. A slot is listed exactly when it has been written, so no entry
equals what an unlisted slot reads as (no value). -/
abbrev Memory.wf (m : Memory) : Prop := m.Pairwise (fun x y => x.1 < y.1)

/-- MemRead(a, 1). A slot that nothing has written since reset reads as a free value (log entry 4). -/
def memRead (s : State) (a : Nat) : Byte := (Memory.read s.q a).getD (Config.freeQueueByte a)

/-- MemWrite(a, 1, v). -/
def memWrite (a : Nat) (v : Byte) (s : State) : State := setQ (Memory.write s.q a v) s

/-- A cursor's next value, (x + 1) mod CAP (spec/44_output_queue.md R146). -/
def nextCursor (s : State) (x : Nat) : Nat := (x + 1) % s.cfg.cap

/-! Signals: the block's only form of an exception (spec/60_exceptions.md R165, R166, R171). -/

/-- The code of a signal (R165, R166). -/
def Signal.code : Signal → Nat
  | .queueFull _ => 1
  | .queueEmpty => 2

/-- Records a signal. It saves nothing and transfers no control (R171, R172). -/
def raise (g : Signal) (s : State) : State :=
  setWires { s.wires with signals := s.wires.signals ++ [g] } s

/-- Records what an operation returns to its caller. -/
def setResult (r : Result) (s : State) : State := setWires { s.wires with result := r } s

/-! Ports (spec/60_exceptions.md R178). -/

/-- PortWrite(TX_DATA, v): drives TX_DATA and TX_WR; the environment takes the byte. -/
def portWrite (v : Byte) (s : State) : State :=
  setTxLog (s.txLog ++ [v]) (setTxWr true (setTxData v s))

/-- No byte is handed over: TX_WR = 0 and TX_DATA is unspecified, a free value (R178, log entry 5). -/
def portQuiet (s : State) : State := setTxWr false (setTxData (Config.freeTxData s.tick) s)

/-! Reset and admission. -/

/-- RESET in a run (spec/70_reset_and_hazards.md R190, spec/60_exceptions.md R182): every piece of state takes its
value of spec/10_state.md R30; TXLOG, the configuration and the environment's moves stay (log entry 11). -/
def resetBlock (s : State) : State :=
  { s with
    pos := 0
    kt := Vector.replicate 9 0
    snap := 0
    pedalPrev := resetPedal s.cfg
    prev := 0
    event := false
    idle := false
    wr := 0
    rd := 0
    q := []
    txData := Config.freeTxData s.tick
    txWr := false
    wires := {} }

/-- Why a configuration is refused (spec/60_exceptions.md R167). -/
def configRefusal (c : Config) : Option Refusal :=
  if ¬ c.capOk then some .badCapacity
  else if ¬ c.transposeOk then some .badTranspose
  else none

/-- Why a state is refused (R167, R18, R22). -/
def stateRefusal (s : State) : Option Refusal :=
  match configRefusal s.cfg with
  | some r => some r
  | none =>
    if 64 < s.pos.toNat then some .unreachablePos
    else if ¬ (s.wr < s.cfg.cap ∧ s.rd < s.cfg.cap) then some .cursorOutOfRange
    else none

/-- The outcome of an operation that takes `s` to `t`: `t`, unless `s` is a state the model refuses. -/
def proceed (s t : State) : Host.Outcome State Fault Refusal :=
  match stateRefusal s with
  | some r => .refused r
  | none => .next t

end Sys2Proof.Machine
end

