-- ==== Sys2Proof/Machine/Flags.lean ====
section
/-! DEFINITION. The flags EVENT and IDLE, the edge masks, and every predicate that an operation is selected by. -/

namespace Sys2Proof.Machine

/-- The lines that rose: CUR & (CUR ^ PREV) (spec/40_frame_sampler.md R82). -/
def riseMask (cur prev : Lines) : Lines := cur &&& (cur ^^^ prev)

/-- The lines that fell: PREV & (CUR ^ PREV) (R82). -/
def fallMask (cur prev : Lines) : Lines := prev &&& (cur ^^^ prev)

/-- VALID_KEY (spec/41_transition_detector.md R106). -/
def validKey (p : Position) : Bool :=
  (decide (1 ≤ p.toNat) && decide (p.toNat ≤ 31)) || (decide (34 ≤ p.toNat) && decide (p.toNat ≤ 63))

/-- The SEL9 word {FALL[2], RISE[0], POS} (spec/30_encoding.md R69). -/
def samplerWord (s : State) : BitVec 9 := sel9Word (s.wires.fall.getLsbD 2) (s.wires.rise.getLsbD 0) s.pos

/-- The CAPSEL3 word {VALID_KEY(p), D != SNAP[p mod 8], p == 64}, taken after BLOCK_SNAPSHOT (R69). -/
def captureWord (p : Position) (d : Bool) (s : State) : BitVec 3 :=
  capsel3Word (validKey p) (d != s.snap.getLsbD (bitOf p)) (p == 64)

/-- The queue is empty: RD == WR (spec/44_output_queue.md R143). -/
def queueEmpty (s : State) : Bool := s.rd == s.wr

/-- The TXSEL5 word {EVENT, IDLE, POS != 0, TX_READY, RD != WR} (R69). -/
def schedulerWord (r : Bool) (s : State) : BitVec 5 :=
  txsel5Word s.event s.idle (s.pos != 0) r (!queueEmpty s)

/-- The gate of the Transmit Scheduler (spec/45_transmit_scheduler.md R156). -/
def gateOpen (s : State) : Bool := s.event && s.idle && s.pos != 0

/-- The flags of a key transition: EVENT <- 1, IDLE <- 0, with room or without (R103, D25). -/
def flagTransition (s : State) : State := setIdle false (setEvent true s)

/-- The flags of a pedal change: EVENT <- 1 unless PEDAL_SETS_EVENT is false; IDLE stays (R104, D16). -/
def flagPedal (s : State) : State := if s.cfg.pedalSetsEvent then setEvent true s else s

end Sys2Proof.Machine
end

