-- ==== Sys2Proof/Machine/OutputQueue.lean ====
section
/-! DEFINITION. The Output Queue (spec/44_output_queue.md). -/

namespace Sys2Proof.Machine

/-- COUNT(), (WR - RD) mod CAP (R141). -/
def queueCount (s : State) : Nat := (s.wr + s.cfg.cap - s.rd) % s.cfg.cap

/-- FREE(), CAP - 1 - COUNT() (R141). -/
def queueFree (s : State) : Nat := s.cfg.cap - 1 - queueCount s

/-- FULL(), (WR + 1) mod CAP == RD (R142). -/
def queueFull (s : State) : Bool := nextCursor s s.wr == s.rd

/-- ENQUEUE(v) (R144): nothing changes when FULL. -/
def enqueue (v : Byte) (s : State) : State :=
  if queueFull s then s else setWr (nextCursor s s.wr) (memWrite s.wr v s)

/-- What ENQUEUE returns. -/
def enqueueResult (s : State) : Result := if queueFull s then .fail else .ok

/-- DEQUEUE() (R145): QueueEmpty when EMPTY, else RD advances. -/
def dequeue (s : State) : State :=
  if queueEmpty s then raise .queueEmpty s else setRd (nextCursor s s.rd) s

/-- What DEQUEUE returns. -/
def dequeueResult (s : State) : Result := if queueEmpty s then .fail else .byte (memRead s s.rd)

/-- COUNT. -/
def execCount (s : State) : Host.Outcome State Fault Refusal :=
  proceed s (setResult (.number (queueCount s)) s)

/-- FREE. -/
def execFree (s : State) : Host.Outcome State Fault Refusal :=
  proceed s (setResult (.number (queueFree s)) s)

/-- FULL. -/
def execFull (s : State) : Host.Outcome State Fault Refusal :=
  proceed s (setResult (.truth (queueFull s)) s)

/-- EMPTY. -/
def execEmpty (s : State) : Host.Outcome State Fault Refusal :=
  proceed s (setResult (.truth (queueEmpty s)) s)

/-- ENQUEUE. -/
def execEnqueue (v : Byte) (s : State) : Host.Outcome State Fault Refusal :=
  proceed s (setResult (enqueueResult s) (enqueue v s))

/-- DEQUEUE. -/
def execDequeue (s : State) : Host.Outcome State Fault Refusal :=
  proceed s (setResult (dequeueResult s) (dequeue s))

end Sys2Proof.Machine
end

