-- ==== Sys2Proof/Machine/MessageEncoder.lean ====
section
/-! DEFINITION. The Message Encoder (spec/43_message_encoder.md) and the message words of
spec/30_encoding.md R62 to R64. -/

namespace Sys2Proof.Machine

/-- The bytes of a message in the order they are enqueued and sent (spec/20_memory.md R43). -/
def Message.bytes (m : Message) : List Byte := [m.status, m.data1, m.data2]

/-- MSG_NOTE_ON(n) (R130). -/
def msgNoteOn (n : BitVec 7) : Message := ⟨statusNoteOn, n.setWidth 8, velOn⟩

/-- MSG_NOTE_OFF(n) (R131). -/
def msgNoteOff (n : BitVec 7) : Message := ⟨statusNoteOff, n.setWidth 8, velOff⟩

/-- MSG_CC_DAMPER(P) (R132): P = 1 is the pedal released. -/
def msgCcDamper (ped : Bool) : Message := ⟨statusCc, ccDamper, if ped then ccValBit1 else ccValBit0⟩

/-- The three byte-wise calls of ENQUEUE (R133). -/
def enqueueBytes (m : Message) (s : State) : State :=
  enqueue m.data2 (enqueue m.data1 (enqueue m.status s))

/-- ENQUEUE_MSG (R133): whole, or dropped whole with QueueFull. With ENQUEUE_ATOMIC = false the bytes that fit are
kept and QueueFull is raised when one did not (D15, log entry 8). -/
def enqueueMsg (m : Message) (s : State) : State :=
  if 3 ≤ queueFree s then enqueueBytes m s
  else if s.cfg.enqueueAtomic then raise (.queueFull m) s
  else raise (.queueFull m) (enqueueBytes m s)

/-- MSG_NOTE_ON. -/
def execMsgNoteOn (n : BitVec 7) (s : State) : Host.Outcome State Fault Refusal :=
  proceed s (setResult (.message (msgNoteOn n)) s)

/-- MSG_NOTE_OFF. -/
def execMsgNoteOff (n : BitVec 7) (s : State) : Host.Outcome State Fault Refusal :=
  proceed s (setResult (.message (msgNoteOff n)) s)

/-- MSG_CC_DAMPER. -/
def execMsgCcDamper (ped : Bool) (s : State) : Host.Outcome State Fault Refusal :=
  proceed s (setResult (.message (msgCcDamper ped)) s)

/-- ENQUEUE_MSG. -/
def execEnqueueMsg (b0 b1 b2 : Byte) (s : State) : Host.Outcome State Fault Refusal :=
  proceed s (enqueueMsg ⟨b0, b1, b2⟩ s)

/-- The message word NOTE_ON (R62), handed to the queue (log entry 12). -/
def execNoteOn (n : BitVec 7) (s : State) : Host.Outcome State Fault Refusal :=
  proceed s (enqueueMsg (msgNoteOn n) s)

/-- The message word NOTE_OFF (R63), handed to the queue (log entry 12). -/
def execNoteOff (n : BitVec 7) (s : State) : Host.Outcome State Fault Refusal :=
  proceed s (enqueueMsg (msgNoteOff n) s)

/-- The message word CC_DAMPER with value 0x7F (R64), handed to the queue (log entry 12). -/
def execCcDamperReleased (s : State) : Host.Outcome State Fault Refusal :=
  proceed s (enqueueMsg (msgCcDamper true) s)

/-- The message word CC_DAMPER with value 0x00 (R64), handed to the queue (log entry 12). -/
def execCcDamperPressed (s : State) : Host.Outcome State Fault Refusal :=
  proceed s (enqueueMsg (msgCcDamper false) s)

end Sys2Proof.Machine
end

