-- ==== Sys2Proof/Machine/NoteMapper.lean ====
section
/-! DEFINITION. The Note Mapper (spec/42_note_mapper.md). -/

namespace Sys2Proof.Machine

/-- NOTE(p, T), over the integers (R120, R121); no value at 0, 32, 33 and 64. -/
def note (p : Position) (t : Int) : Option Int :=
  let k : Int := p.toNat
  if 1 ≤ p.toNat ∧ p.toNat ≤ 31 then some (t + noteBaseLo - 2 * k)
  else if 34 ≤ p.toNat ∧ p.toNat ≤ 63 then some (t + noteBaseHi - 2 * (k - 31))
  else none

/-- The note operand n[6:0] (spec/30_encoding.md R65). -/
def noteBits (n : Int) : BitVec 7 := BitVec.ofInt 7 n

/-- NOTE. -/
def execNote (p : Position) (s : State) : Host.Outcome State Fault Refusal :=
  proceed s (setResult (.note (note p s.cfg.transpose)) s)

end Sys2Proof.Machine
end

