-- ==== Sys2Proof/Machine/TransitionDetector.lean ====
section
/-! DEFINITION. The Transition Detector (spec/41_transition_detector.md). -/

namespace Sys2Proof.Machine

/-- BLOCK_SNAPSHOT(b) (R101). -/
def blockSnapshot (b : Nat) (s : State) : State := setKtByte b 0 (setSnap (ktByte s b) s)

/-- BIT_STORE(b, i, D) (R102). -/
def bitStore (b i : Nat) (d : Bool) (s : State) : State :=
  setKtByte b (ktByte s b ||| (bitByte d <<< i)) s

/-- KEY_TRANSITION(p, D) (R103). Only key positions have a note; elsewhere it is never called. -/
def keyTransition (p : Position) (d : Bool) (s : State) : State :=
  match note p s.cfg.transpose with
  | some n =>
    enqueueMsg (if d then msgNoteOn (noteBits n) else msgNoteOff (noteBits n)) (flagTransition s)
  | none => flagTransition s

/-- PEDAL_SLOT(P) (R104). -/
def pedalSlot (ped : Bool) (s : State) : State :=
  setPedalPrev (bitByte ped)
    (if bitByte ped = s.pedalPrev then s else enqueueMsg (msgCcDamper ped) (flagPedal s))

/-- IDLE_MARK() (R105). -/
def idleMark (s : State) : State := setIdle true s

/-- Step 1 of CAPTURE: BLOCK_SNAPSHOT where the POS7 word selects it (R101); the row for POS 1 is there only with
FIRST_BLOCK_SNAPSHOT (D7, log entry 10). -/
def captureSnapshot (p : Position) (s : State) : State :=
  match decodePos7 p with
  | some (.block b) => blockSnapshot b.val s
  | some .first => if s.cfg.firstBlockSnapshot then blockSnapshot 0 s else s
  | none => s

/-- Steps 3 to 5 of CAPTURE: the one arm that the CAPSEL3 word selects (R100, R69). -/
def captureArm (p : Position) (d ped : Bool) (s : State) : State :=
  match decodeCapsel3 (captureWord p d s) with
  | .keyTransition _ => keyTransition p d s
  | .pedalSlot _ => pedalSlot ped s
  | .idleMarkKey _ => idleMark s
  | .idleMarkFiller _ => idleMark s

/-- CAPTURE(p, D, P) (R100): snapshot, bit, arm. -/
def capture (p : Position) (d ped : Bool) (s : State) : State :=
  captureArm p d ped (bitStore (blockOf p) (bitOf p) d (captureSnapshot p s))

/-- BLOCK_SNAPSHOT at POS = 8 b. -/
def execBlockSnapshotBlock (b : Fin 9) (s : State) : Host.Outcome State Fault Refusal :=
  proceed s (blockSnapshot b.val s)

/-- BLOCK_SNAPSHOT at POS = 1. -/
def execBlockSnapshotFirst (s : State) : Host.Outcome State Fault Refusal :=
  proceed s (blockSnapshot 0 s)

/-- KEY_TRANSITION, at the position POS holds and with the sampled data bit. -/
def execKeyTransition (_e : Bool) (s : State) : Host.Outcome State Fault Refusal :=
  if validKey s.pos then proceed s (keyTransition s.pos (sampledData s) s) else .refused .notAKeyPosition

/-- PEDAL_SLOT, with the sampled pedal bit. -/
def execPedalSlot (_x : Bool) (s : State) : Host.Outcome State Fault Refusal :=
  proceed s (pedalSlot s.wires.ped s)

/-- IDLE_MARK at a key position. -/
def execIdleMarkKey (_e : Bool) (s : State) : Host.Outcome State Fault Refusal :=
  proceed s (idleMark s)

/-- IDLE_MARK at a filler position. -/
def execIdleMarkFiller (_x : Bool) (s : State) : Host.Outcome State Fault Refusal :=
  proceed s (idleMark s)

/-- CAPTURE. It is never run with p = 0 (R100). Run by itself it takes the position from its operand, whatever POS
holds: DESIGN CHOICE, log entry 13. -/
def execCapture (p : Position) (d ped : Bool) (s : State) : Host.Outcome State Fault Refusal :=
  if isPosition p then proceed s (capture p d ped s) else .refused .notAPosition

/-- BIT_STORE. -/
def execBitStore (b : Fin 9) (i : Fin 8) (d : Bool) (s : State) : Host.Outcome State Fault Refusal :=
  proceed s (bitStore b.val i.val d s)

/-- VALID_KEY. -/
def execValidKey (p : Position) (s : State) : Host.Outcome State Fault Refusal :=
  proceed s (setResult (.truth (validKey p)) s)

end Sys2Proof.Machine
end

