-- ==== Sys2Proof/Machine/TransmitScheduler.lean ====
section
/-! DEFINITION. The Transmit Scheduler (spec/45_transmit_scheduler.md). -/

namespace Sys2Proof.Machine

/-- TX_BYTE (R157). -/
def txByte (s : State) : State := portWrite (memRead s s.rd) (setRd (nextCursor s s.rd) s)

/-- TX_EVENT_CLEAR (R158). -/
def txEventClear (s : State) : State := portQuiet (setEvent false (raise .queueEmpty s))

/-- TX_SCHED(R) (R155), by the TXSEL5 word (spec/30_encoding.md R69). TX_NOT_READY (R159) and TX_GATED (R156) change
nothing but that no byte stands on the port. -/
def txSched (r : Bool) (s : State) : State :=
  match decodeTxsel5 (schedulerWord r s) with
  | .txByte => txByte s
  | .txEventClear => txEventClear s
  | .txNotReady _ => portQuiet s
  | .txGated _ _ _ _ _ => portQuiet s

/-- TX_BYTE. -/
def execTxByte (s : State) : Host.Outcome State Fault Refusal := proceed s (txByte s)

/-- TX_EVENT_CLEAR. -/
def execTxEventClear (s : State) : Host.Outcome State Fault Refusal := proceed s (txEventClear s)

/-- TX_NOT_READY. -/
def execTxNotReady (_ne : Bool) (s : State) : Host.Outcome State Fault Refusal := proceed s (portQuiet s)

/-- TX_GATED. -/
def execTxGated (_event _idle _posNz _ready _ne : Bool) (s : State) : Host.Outcome State Fault Refusal :=
  proceed s (portQuiet s)

/-- TX_SCHED. -/
def execTxSched (r : Bool) (s : State) : Host.Outcome State Fault Refusal := proceed s (txSched r s)

end Sys2Proof.Machine
end

