-- ==== Sys2Proof/Machine/FrameSampler.lean ====
section
/-! DEFINITION. The Frame Sampler and the iteration (spec/40_frame_sampler.md). -/

namespace Sys2Proof.Machine

/-- SAMPLE (R81): CUR, P and R are latched together. -/
def sample (w : In5) (s : State) : State :=
  setWires { s.wires with cur := inLines w, ped := pedalBit s.cfg w, rdy := inReady w } s

/-- EDGE_DETECT (R82): RISE and FALL of `cur` against PREV. -/
def edgeDetect (cur : Lines) (s : State) : State :=
  setWires { s.wires with rise := riseMask cur s.prev, fall := fallMask cur s.prev } s

/-- ADVANCE (R85): POS <- (POS + 1) mod 65, the sum formed in more than 7 bits. -/
def advance (s : State) : State := setPos (BitVec.ofNat 7 ((s.pos.toNat + 1) % frameLen)) s

/-- PREV_UPDATE (R87). -/
def prevUpdate (cur : Lines) (s : State) : State := setPrev cur s

/-- EDGE_SERVICE (R84) with the capture at position `p`, which the select word holds (R69). -/
def serviceAt (p : Position) (d ped : Bool) (s : State) : State := advance (capture p d ped s)

/-- SYNC_EXIT (R83): POS <- 1, set directly. With SYNC_EXIT_SERVICES_CLOCK a clock edge `r` in the same sample is then
serviced at position 1 (D8, log entry 7); by the decided value it is not. -/
def syncExit (r d ped : Bool) (s : State) : State :=
  if s.cfg.syncExitServicesClock && r then serviceAt 1 d ped (setPos 1 s) else setPos 1 s

/-- The sampler part of an iteration (R80, R69). SYNC_HOLD (R83) and NO_EDGE (R86) change nothing. A state that
would select row 8 is refused before this runs, so that arm is never taken. -/
def samplerPart (o : SamplerOp) (s : State) : State :=
  match o with
  | .syncExit r => syncExit r (sampledData s) s.wires.ped s
  | .syncHold _ => s
  | .noEdge _ _ => s
  | .capturePedal _ => serviceAt pedalPosition (sampledData s) s.wires.ped s
  | .captureFiller _ p => serviceAt (fillerPosition p) (sampledData s) s.wires.ped s
  | .captureKeyHi _ p => serviceAt (keyHiPosition p) (sampledData s) s.wires.ped s
  | .captureKeyLo _ p => serviceAt (keyLoPosition p) (sampledData s) s.wires.ped s
  | .unreachablePos _ _ => s

/-- The values inside an iteration do not outlive it (spec/10_state.md R28, log entry 3). -/
def clearWires (s : State) : State := setWires {} s

/-- The first two parts of an iteration: SAMPLE, EDGE_DETECT (R80). -/
def sampled (w : In5) (s : State) : State := edgeDetect (inLines w) (sample w (clearWires s))

/-- ITERATION (R80): SAMPLE, EDGE_DETECT, the operation the SEL9 word selects, PREV_UPDATE, TX_SCHED. -/
def iteration (w : In5) (s : State) : State :=
  txSched (inReady w)
    (prevUpdate (inLines w) (samplerPart (decodeSel9 (samplerWord (sampled w s))) (sampled w s)))

/-- EDGE_SERVICE at a position the select word or POS gives; a capture is never run outside 1..64 (R100). -/
def serviceOutcome (p : Position) (d ped : Bool) (s : State) : Host.Outcome State Fault Refusal :=
  if isPosition p then proceed s (serviceAt p d ped s) else .refused .notAPosition

/-- ITERATION. -/
def execIteration (w : In5) (s : State) : Host.Outcome State Fault Refusal := proceed s (iteration w s)

/-- SAMPLE. -/
def execSample (w : In5) (s : State) : Host.Outcome State Fault Refusal := proceed s (sample w s)

/-- EDGE_DETECT. -/
def execEdgeDetect (cur : Lines) (s : State) : Host.Outcome State Fault Refusal := proceed s (edgeDetect cur s)

/-- EDGE_SERVICE, at the position POS holds. R84 runs it only when the clock rose; run by itself it captures and
advances whatever RISE holds: DESIGN CHOICE, log entry 13. -/
def execEdgeService (d ped : Bool) (s : State) : Host.Outcome State Fault Refusal :=
  serviceOutcome s.pos d ped s

/-- ADVANCE. Run by itself it advances from every POS, 0 among them: DESIGN CHOICE, log entry 13. -/
def execAdvance (s : State) : Host.Outcome State Fault Refusal := proceed s (advance s)

/-- PREV_UPDATE. -/
def execPrevUpdate (cur : Lines) (s : State) : Host.Outcome State Fault Refusal := proceed s (prevUpdate cur s)

/-- SYNC_EXIT. -/
def execSyncExit (r : Bool) (s : State) : Host.Outcome State Fault Refusal :=
  proceed s (syncExit r (sampledData s) s.wires.ped s)

/-- SYNC_HOLD: POS stays 0 (R83). -/
def execSyncHold (_r : Bool) (s : State) : Host.Outcome State Fault Refusal := proceed s s

/-- NO_EDGE: nothing changes (R86). -/
def execNoEdge (_f : Bool) (_p : Position) (s : State) : Host.Outcome State Fault Refusal := proceed s s

/-- CAPTURE_PEDAL: EDGE_SERVICE at 64. The sync edge `f` is ignored (R84). -/
def execCapturePedal (_f : Bool) (s : State) : Host.Outcome State Fault Refusal :=
  serviceOutcome pedalPosition (sampledData s) s.wires.ped s

/-- CAPTURE_FILLER: EDGE_SERVICE at 32 or 33. -/
def execCaptureFiller (_f : Bool) (p : BitVec 1) (s : State) : Host.Outcome State Fault Refusal :=
  serviceOutcome (fillerPosition p) (sampledData s) s.wires.ped s

/-- CAPTURE_KEY_HI: EDGE_SERVICE at 34..63. -/
def execCaptureKeyHi (_f : Bool) (p : BitVec 5) (s : State) : Host.Outcome State Fault Refusal :=
  serviceOutcome (keyHiPosition p) (sampledData s) s.wires.ped s

/-- CAPTURE_KEY_LO: EDGE_SERVICE at 1..31. -/
def execCaptureKeyLo (_f : Bool) (p : BitVec 5) (s : State) : Host.Outcome State Fault Refusal :=
  serviceOutcome (keyLoPosition p) (sampledData s) s.wires.ped s

/-- UNREACHABLE_POS: a model refuses a state holding such a position (spec/30_encoding.md R70). -/
def execUnreachablePos (_f : Bool) (_p : BitVec 6) (_s : State) : Host.Outcome State Fault Refusal :=
  .refused .unreachablePos

end Sys2Proof.Machine
end

