-- ==== Sys2Proof/Machine/Dispatch.lean ====
section
/-! DEFINITION. One arm per operation, each one direct call of its meaning. -/

namespace Sys2Proof.Machine

def exec (i : Instr) (s : State) : Host.Outcome State Fault Refusal :=
  match i with
  | .noteOn n => Sys2Proof.Machine.execNoteOn n s
  | .noteOff n => Sys2Proof.Machine.execNoteOff n s
  | .ccDamperReleased => Sys2Proof.Machine.execCcDamperReleased s
  | .ccDamperPressed => Sys2Proof.Machine.execCcDamperPressed s
  | .syncExit r => Sys2Proof.Machine.execSyncExit r s
  | .syncHold r => Sys2Proof.Machine.execSyncHold r s
  | .noEdge f p => Sys2Proof.Machine.execNoEdge f p s
  | .capturePedal f => Sys2Proof.Machine.execCapturePedal f s
  | .captureFiller f p => Sys2Proof.Machine.execCaptureFiller f p s
  | .captureKeyHi f p => Sys2Proof.Machine.execCaptureKeyHi f p s
  | .captureKeyLo f p => Sys2Proof.Machine.execCaptureKeyLo f p s
  | .unreachablePos f p => Sys2Proof.Machine.execUnreachablePos f p s
  | .blockSnapshotBlock b => Sys2Proof.Machine.execBlockSnapshotBlock b s
  | .blockSnapshotFirst => Sys2Proof.Machine.execBlockSnapshotFirst s
  | .keyTransition e => Sys2Proof.Machine.execKeyTransition e s
  | .pedalSlot x => Sys2Proof.Machine.execPedalSlot x s
  | .idleMarkKey e => Sys2Proof.Machine.execIdleMarkKey e s
  | .idleMarkFiller x => Sys2Proof.Machine.execIdleMarkFiller x s
  | .txByte => Sys2Proof.Machine.execTxByte s
  | .txEventClear => Sys2Proof.Machine.execTxEventClear s
  | .txNotReady ne => Sys2Proof.Machine.execTxNotReady ne s
  | .txGated event idle posNz ready ne => Sys2Proof.Machine.execTxGated event idle posNz ready ne s
  | .iteration w => Sys2Proof.Machine.execIteration w s
  | .sample w => Sys2Proof.Machine.execSample w s
  | .edgeDetect cur => Sys2Proof.Machine.execEdgeDetect cur s
  | .edgeService d ped => Sys2Proof.Machine.execEdgeService d ped s
  | .capture p d ped => Sys2Proof.Machine.execCapture p d ped s
  | .bitStore b k d => Sys2Proof.Machine.execBitStore b k d s
  | .advance => Sys2Proof.Machine.execAdvance s
  | .prevUpdate cur => Sys2Proof.Machine.execPrevUpdate cur s
  | .txSched r => Sys2Proof.Machine.execTxSched r s
  | .note p => Sys2Proof.Machine.execNote p s
  | .msgNoteOn n => Sys2Proof.Machine.execMsgNoteOn n s
  | .msgNoteOff n => Sys2Proof.Machine.execMsgNoteOff n s
  | .msgCcDamper ped => Sys2Proof.Machine.execMsgCcDamper ped s
  | .enqueueMsg b0 b1 b2 => Sys2Proof.Machine.execEnqueueMsg b0 b1 b2 s
  | .enqueue v => Sys2Proof.Machine.execEnqueue v s
  | .dequeue => Sys2Proof.Machine.execDequeue s
  | .validKey p => Sys2Proof.Machine.execValidKey p s
  | .count => Sys2Proof.Machine.execCount s
  | .free => Sys2Proof.Machine.execFree s
  | .full => Sys2Proof.Machine.execFull s
  | .empty => Sys2Proof.Machine.execEmpty s

end Sys2Proof.Machine
end

