-- ==== Sys2Proof/Machine/Trace.lean ====
section
/-! DEFINITION. The trace language (spec/30_encoding.md R67, R73, R74): what the environment presents, written as
moves. -/

namespace Sys2Proof.Machine

/-- The IN5 word of `IN c d s p r` (R67, R73). -/
def in5Word (c d s p r : Bool) : In5 :=
  BitVec.ofBool r ++ BitVec.ofBool p ++ BitVec.ofBool s ++ BitVec.ofBool d ++ BitVec.ofBool c

/-- `IN c d s p r`, one iteration (R73). -/
def traceIn (c d s p r : Bool) : Stimulus := .levels (in5Word c d s p r)

/-- `SYNC p r` (R74). -/
def traceSync (p r : Bool) : List Stimulus := [traceIn false false true p r, traceIn false false false p r]

/-- `BIT d p r` (R74). -/
def traceBit (d p r : Bool) : List Stimulus := [traceIn false d false p r, traceIn true d false p r]

/-- `WAIT n p r` (R74). -/
def traceWait (n : Nat) (p r : Bool) : List Stimulus := List.replicate n (traceIn false false false p r)

/-- The bits of positions `k`, `k + 1`, ..., one for each entry. -/
def traceBits (ds : List Bool) (p r : Bool) : List Stimulus := ds.flatMap fun d => traceBit d p r

/-- `FRAME keys p r` (R74): SYNC, then the bits of positions 1..64, 1 for those in `keys`. -/
def traceFrame (keys : List Nat) (p r : Bool) : List Stimulus :=
  traceSync p r ++ traceBits ((List.range 64).map fun k => keys.contains (k + 1)) p r

end Sys2Proof.Machine
end

