-- ==== Sys2Proof/Machine/Fetch.lean ====
section
/-! DEFINITION. Where a step gets its next operation from: the environment's next move (log entry 1), and, for the
host's questions, how a state is arranged so that the next step performs the operation of a given word
(log entry 6). The block itself fetches nothing (spec/20_memory.md R55). -/

namespace Sys2Proof.Machine

/-- The environment's next move: the head of the trace, or a free value when the trace is used up. -/
def nextStimulus (s : State) : Stimulus :=
  match s.trace with
  | m :: _ => m
  | [] => Config.freeStimulus s.tick

/-- The state as the step begins: the move is used up and the step counted. -/
def takeStimulus (s : State) : State := setTick (s.tick + 1) (setTrace s.trace.tail s)

/-- RESET as the outcome of a step (spec/60_exceptions.md R182). A state that the model refuses, one with POS above 64
among them, is refused here as everywhere (spec/30_encoding.md R70 (a), spec/10_state.md R18), although
spec/70_reset_and_hazards.md R190 states RESET without a condition: DEDUCED, log entry 11. -/
def resetOutcome (s : State) : Host.Outcome State Fault Refusal := proceed s (resetBlock s)

/-- The next iteration samples `w`, and the iteration before it sampled `prev`. -/
def placeSample (prev : Lines) (w : In5) (s : State) : State :=
  setTrace (.levels w :: s.trace) (setPrev prev s)

/-- The next iteration is a serviced edge at `p`, with the data and pedal levels `d` and `ped`. -/
def placeEdge (p : Position) (d ped : Bool) (s : State) : State :=
  placeSample 0 (in5Word true d false ped false) (setPos p s)

/-- The bit of `p` in the previous pass is `old`. -/
def placeOldBit (p : Position) (old : Bool) (s : State) : State :=
  let v := bitByte old <<< bitOf p
  match decodePos7 p with
  | some _ => setKtByte (blockOf p) v (setSnap v s)
  | none => setSnap v s

/-- The next iteration services the key whose note is `n`, with level `d` after level `!d`. Where no position has
that note under the transpose of `s`, the transpose is the nearest to 0 that gives it one. -/
def placeNote (n : BitVec 7) (d : Bool) (s : State) : State :=
  let k := n.toNat
  let t : Int :=
    if 36 ≤ (k : Int) - s.cfg.transpose ∧ (k : Int) - s.cfg.transpose ≤ 96 then s.cfg.transpose
    else if k < 36 then (k : Int) - 36
    else if 96 < k then (k : Int) - 96
    else 0
  let m := ((k : Int) - t).toNat
  let p : Position := if m % 2 = 0 then BitVec.ofNat 7 ((98 - m) / 2) else BitVec.ofNat 7 ((163 - m) / 2)
  placeEdge p d true (placeOldBit p (!d) { s with cfg := { s.cfg with transpose := t } })

/-- The next iteration services POS 64 with the pedal bit `ped` after `!ped`. -/
def placePedal (ped : Bool) (s : State) : State :=
  placeEdge pedalPosition ped ped (setPedalPrev (bitByte (!ped)) s)

/-- The next iteration forms the SEL9 word of the operation. -/
def placeSelect (f r : Bool) (p : Position) (s : State) : State :=
  placeSample (if f then 4 else 0) (in5Word r false false true false) (setPos p s)

/-- The next iteration's capture forms the CAPSEL3 word {k, x, e}; k takes precedence over e, as both are never 1. -/
def placeArm (k x e : Bool) (s : State) : State :=
  let p : Position := if k then 2 else if e then 64 else 33
  placeEdge p false true (placeOldBit p x s)

/-- The next iteration has no edge, and its scheduler forms the given TXSEL5 word. -/
def placeOutcome (event idle posNz ready ne : Bool) (s : State) : State :=
  let s := setIdle idle (setEvent event (setPos (if posNz then (if s.pos = 0 then 1 else s.pos) else 0) s))
  let s :=
    if ne then
      if queueEmpty s then setWr (nextCursor s s.rd) (memWrite s.rd 0 s) else s
    else setWr s.rd s
  placeSample 0 (in5Word false false false true ready) s

/-- The state from which the very next step performs `i`, for the operations that a word stands for; no word of the
table decodes to the others, and they leave the state alone. -/
def placeInstr (i : Instr) (s : State) : State :=
  match i with
  | .noteOn n => placeNote n true s
  | .noteOff n => placeNote n false s
  | .ccDamperReleased => placePedal true s
  | .ccDamperPressed => placePedal false s
  | .syncExit r => placeSelect true r 0 s
  | .syncHold r => placeSelect false r 0 s
  | .noEdge f p => placeSelect f false p s
  | .capturePedal f => placeSelect f true pedalPosition s
  | .captureFiller f p => placeSelect f true (fillerPosition p) s
  | .captureKeyHi f p => placeSelect f true (keyHiPosition p) s
  | .captureKeyLo f p => placeSelect f true (keyLoPosition p) s
  | .unreachablePos f p => placeSelect f true (beyondPosition p) s
  | .blockSnapshotBlock b => placeEdge (BitVec.ofNat 7 (8 * b.val)) false true s
  | .blockSnapshotFirst => placeEdge 1 false true s
  | .keyTransition e => placeArm true true e s
  | .pedalSlot x => placeArm false x true s
  | .idleMarkKey e => placeArm true false e s
  | .idleMarkFiller x => placeArm false x false s
  | .txByte => placeOutcome true true true true true s
  | .txEventClear => placeOutcome true true true true false s
  | .txNotReady ne => placeOutcome true true true false ne s
  | .txGated event idle posNz ready ne => placeOutcome event idle posNz ready ne s
  | .iteration w => setTrace (.levels w :: s.trace) s
  | .sample _ => s
  | .edgeDetect _ => s
  | .edgeService _ _ => s
  | .capture _ _ _ => s
  | .bitStore _ _ _ => s
  | .advance => s
  | .prevUpdate _ => s
  | .txSched _ => s
  | .note _ => s
  | .msgNoteOn _ => s
  | .msgNoteOff _ => s
  | .msgCcDamper _ => s
  | .enqueueMsg _ _ _ => s
  | .enqueue _ => s
  | .dequeue => s
  | .validKey _ => s
  | .count => s
  | .free => s
  | .full => s
  | .empty => s

/-- The state from which the next step performs what a word of the opcode table stands for; a word the decoder
rejects leaves the state alone. -/
def placeWord (nbits w : Nat) (s : State) : State :=
  match decodeTableWord nbits w with
  | some i => placeInstr i s
  | none => s

end Sys2Proof.Machine
end

