-- ==== Sys2Proof/Machine/Step.lean ====
section
/-! DEFINITION. One step of the block: the environment's next move, an iteration on the levels it presents or a
RESET (spec/40_frame_sampler.md R80, spec/60_exceptions.md R182). -/

namespace Sys2Proof.Machine

/-- One step. The IN5 word of the move is decoded (spec/30_encoding.md R73) and the operation executed. -/
def step (s : State) : Host.Outcome State Fault Refusal :=
  match nextStimulus s with
  | .levels w => exec (decodeIn5 w) (takeStimulus s)
  | .reset => resetOutcome (takeStimulus s)

/-- The state arranged so that the very next step performs what the word stands for (host interface,
log entry 6). -/
def State.withFetchWord (s : State) (nbits w : Nat) : State := placeWord nbits w s

end Sys2Proof.Machine
end

