-- ==== Sys2Proof/Safety.lean ====
section
/-! DEFINITION. What a well-formed run is, in the terms that the statements use: the states the model admits, the
invariants of spec/10_state.md R31, and the views of the queue and of the key table they speak of. -/

namespace Sys2Proof.Machine

/-- The states no operation is refused in: a well-formed configuration, POS at most 64, cursors below CAP
(spec/60_exceptions.md R167, spec/10_state.md R31 (a), (d)). -/
structure Admitted (s : State) : Prop where
  cap : s.cfg.capOk
  transpose : s.cfg.transposeOk
  pos : s.pos.toNat ≤ 64
  wr : s.wr < s.cfg.cap
  rd : s.rd < s.cfg.cap

/-- The bytes queued, oldest first: the slots from RD up to but not including WR (R27). -/
def liveBytes (s : State) : List Byte :=
  (List.range (queueCount s)).map fun k => memRead s ((s.rd + k) % s.cfg.cap)

/-- A slot is live when it lies from RD up to but not including WR (R27). -/
def liveSlot (s : State) (a : Nat) : Prop := ∃ k, k < queueCount s ∧ a = (s.rd + k) % s.cfg.cap

/-- The queue is untouched: WR, RD and Q (R133). -/
def SameQueue (s t : State) : Prop := t.wr = s.wr ∧ t.rd = s.rd ∧ t.q = s.q

/-- The block's state is untouched: every field of spec/10_state.md R10. -/
def SameBlock (s t : State) : Prop :=
  t.pos = s.pos ∧ t.kt = s.kt ∧ t.snap = s.snap ∧ t.pedalPrev = s.pedalPrev ∧ t.prev = s.prev ∧
    t.event = s.event ∧ t.idle = s.idle ∧ SameQueue s t

/-- The invariants (a) to (e) of spec/10_state.md R31 that speak of one state, with the form of the memory: the
addresses rise strictly and lie below CAP. -/
structure StateInv (s : State) : Prop where
  admitted : Admitted s
  /-- (b): the bits that no position has. -/
  ktUnused : (ktByte s 0).getLsbD 0 = false ∧ ktByte s 8 &&& 0xFE = 0
  /-- (c). -/
  pedal : s.pedalPrev = 0xFF ∨ s.pedalPrev = 0x00 ∨ s.pedalPrev = 0x01
  memory : Memory.wf s.q
  inRange : ∀ c ∈ s.q, c.1 < s.cfg.cap

/-- R31 (g): EVENT = 0 implies the queue is empty. -/
def EventCoversQueue (s : State) : Prop := s.event = false → s.rd = s.wr

/-- Every live slot has been written, so no byte that is sent is a free value (R27: "the value of every other slot
is never read"). -/
def LiveSlotsWritten (s : State) : Prop := ∀ a, liveSlot s a → (Memory.read s.q a).isSome = true

/-- A message is one of the words of spec/30_encoding.md R62 to R64. -/
def IsMessage (m : Message) : Prop := ∃ i, decode .msg24 m.bytes = .ok i

/-- R31 (f), for a run without a RESET after its start: what has been handed over followed by what is queued is a
concatenation of whole messages, and TXLOG is its beginning. -/
def Framed (s : State) : Prop :=
  ∃ ms : List Message, (∀ m ∈ ms, IsMessage m) ∧ s.txLog ++ liveBytes s = ms.flatMap Message.bytes

/-- The bits of the current block that this pass has not reached are 0: its byte was cleared at its first serviced
position and only the bits of the positions since were stored (spec/41_transition_detector.md R101, R102). -/
def ClearedAhead (s : State) : Prop :=
  s.pos ≠ 0 → s.pos ≠ 1 → s.pos.toNat % 8 ≠ 0 →
    ∀ p, s.pos.toNat ≤ p → p / 8 = s.pos.toNat / 8 → ktBit s p = false

/-- A snapshot is taken at this position (R101, D7). -/
def SnapshotAt (c : Config) (p : Position) : Prop :=
  p.toNat % 8 = 0 ∨ (p = 1 ∧ c.firstBlockSnapshot = true)

/-- The byte of the previous pass that a capture at `p` compares with: the live byte where a snapshot is just
taken, SNAP elsewhere (R100). -/
def PreviousByte (s : State) (p : Position) (v : Byte) : Prop :=
  (SnapshotAt s.cfg p → v = ktByte s (p.toNat / 8)) ∧ (¬ SnapshotAt s.cfg p → v = s.snap)

/-- What a capture at `p` stores the data bit into: 0 where the byte is just cleared, else the live byte. -/
def LiveByte (s : State) (p : Position) (v : Byte) : Prop :=
  (SnapshotAt s.cfg p → v = 0) ∧ (¬ SnapshotAt s.cfg p → v = ktByte s (p.toNat / 8))

/-- The message `m` was offered to the queue of `s`, and `t` holds what came of it (spec/43_message_encoder.md R133):
with room for three bytes it is queued whole, after what was queued; without, nothing is stored and QueueFull is
raised; with ENQUEUE_ATOMIC = false the bytes that fit are stored (D15, log entry 8). RD is not touched and no other slot
of Q is written. -/
structure Offered (m : Message) (s t : State) : Prop where
  room : 3 ≤ queueFree s →
    t.wr = (s.wr + 3) % s.cfg.cap ∧ liveBytes t = liveBytes s ++ m.bytes ∧ t.wires.signals = s.wires.signals
  dropped : queueFree s < 3 → s.cfg.enqueueAtomic = true →
    SameQueue s t ∧ t.wires.signals = s.wires.signals ++ [.queueFull m]
  partly : queueFree s < 3 → s.cfg.enqueueAtomic = false →
    t.wr = (s.wr + queueFree s) % s.cfg.cap ∧ liveBytes t = liveBytes s ++ m.bytes.take (queueFree s) ∧
      t.wires.signals = s.wires.signals ++ [.queueFull m]
  rd : t.rd = s.rd
  slots : ∀ a, a ≠ s.wr → a ≠ (s.wr + 1) % s.cfg.cap → a ≠ (s.wr + 2) % s.cfg.cap → memRead t a = memRead s a

/-- Operations run one after the other. -/
def execAll : List Instr → State → Host.Outcome State Fault Refusal
  | [], s => .next s
  | i :: is, s =>
    match exec i s with
    | .next t => execAll is t
    | .fault r => .fault r
    | .refused r => .refused r

/-- The bytes that `n` runs of DEQUEUE return, when each returns one. -/
def drain : Nat → State → Option (List Byte)
  | 0, _ => some []
  | n + 1, s =>
    match exec .dequeue s with
    | .next t =>
      match t.wires.result with
      | .byte v => (drain n t).map (v :: ·)
      | _ => none
    | .fault _ => none
    | .refused _ => none

end Sys2Proof.Machine
end

