-- ==== Sys2Proof/WellFormed.lean ====
section
/-! DEFINITION. Which operand values an operation's select word or rule admits. -/

namespace Sys2Proof

/-- The operands are values for which the spec selects, or defines, the operation. -/
def Instr.wf : Instr → Bool
  -- R69 rows 1 and 2 take POS 0, so row 3 has POS != 0
  | .noEdge _ p => p != 0
  -- row 5 takes 32 and 33, so row 6 has 34..63
  | .captureKeyHi _ p => p != 0 && p != 1
  -- rows 1 and 2 take POS 0, so row 7 has 1..31
  | .captureKeyLo _ p => p != 0
  -- row 4 takes 64, so row 8 has 65..127
  | .unreachablePos _ p => p != 0
  -- R101: position 0 is never serviced, so the multiples of 8 are 8..64
  | .blockSnapshotBlock b => b != 0
  -- R69: k and e are never both 1
  | .keyTransition e => !e
  | .idleMarkKey e => !e
  -- R69 row 4 of TXSEL5: what the three rows above it leave
  | .txGated event idle posNz _ _ => !(event && idle && posNz)
  -- R100: 1 <= p <= 64
  | .capture p _ _ => p != 0 && p.ule 64
  -- R120: defined at key positions only
  | .note p => (p != 0 && p.ule 31) || ((34 : Position).ule p && p.ule 63)
  | .noteOn _ => true
  | .noteOff _ => true
  | .ccDamperReleased => true
  | .ccDamperPressed => true
  | .syncExit _ => true
  | .syncHold _ => true
  | .capturePedal _ => true
  | .captureFiller _ _ => true
  | .blockSnapshotFirst => true
  | .pedalSlot _ => true
  | .idleMarkFiller _ => true
  | .txByte => true
  | .txEventClear => true
  | .txNotReady _ => true
  | .iteration _ => true
  | .sample _ => true
  | .edgeDetect _ => true
  | .edgeService _ _ => true
  | .bitStore _ _ _ => true
  | .advance => true
  | .prevUpdate _ => true
  | .txSched _ => true
  | .msgNoteOn _ => true
  | .msgNoteOff _ => true
  | .msgCcDamper _ => true
  | .enqueueMsg _ _ _ => true
  | .enqueue _ => true
  | .dequeue => true
  | .validKey _ => true
  | .count => true
  | .free => true
  | .full => true
  | .empty => true

end Sys2Proof
end

