-- ==== Sys2Proof/Certificates/Slice0/Obligations.lean ====
section
/-! DEFINITION. The statements for the provers. Each says which rule of spec/ it formalises, or what of the model's it
rests on. A conclusion `t = { s with … := t.… }` is a frame: every other field of the state is unchanged. -/

open Sys2Proof Sys2Proof.Machine

/-! Encoding -/

/-- Decoding the word of a well-formed operation gives it back, for every operation that has a word
(spec/30_encoding.md R60 to R69). The byte order of a select word is the model's, log entry 18. -/
def Obligations.EncodedWordsDecodeBack : Prop :=
  ∀ (i : Instr) (fmt : Format) (bytes : List Byte),
    i.wf = true → encode i = some (fmt, bytes) → decode fmt bytes = .ok i

/-- No two byte strings of a format decode to one operation: a decoded word is the word its operation encodes to
(30_encoding.md R62 to R64, R67, R69). The byte order of a SEL9 word, and that a set bit above a word's width is
refused, are the model's, log entry 18. -/
def Obligations.DecodedWordsEncodeBack : Prop :=
  ∀ (i : Instr) (fmt : Format) (bytes : List Byte), decode fmt bytes = .ok i → encode i = some (fmt, bytes)

/-- Ten words whose bits are written out from the tables of 30_encoding.md R62 to R64, R69 and R73. That the two SEL9
words stand low byte first is the model's, log entry 18. -/
def Obligations.SampleWordsDecode : Prop :=
  decode .msg24 [0x90, 0x60, 0x40] = .ok (.noteOn 96) ∧
  decode .msg24 [0x80, 0x5F, 0x00] = .ok (.noteOff 95) ∧
  decode .msg24 [0xB0, 0x40, 0x7F] = .ok .ccDamperReleased ∧
  decode .msg24 [0xB0, 0x40, 0x00] = .ok .ccDamperPressed ∧
  decode .sel9 [0b10000101, 0b0] = .ok (.captureKeyLo false 5) ∧
  decode .sel9 [0b10100011, 0b1] = .ok (.captureKeyHi true 3) ∧
  decode .pos7 [0b0010000] = .ok (.blockSnapshotBlock 2) ∧
  decode .capsel3 [0b110] = .ok (.keyTransition false) ∧
  decode .txsel5 [0b11110] = .ok .txEventClear ∧
  decode .in5 [0x1C] = .ok (.iteration 0b11100)

/-- The operation a select word names: SEL9 by the position classes of spec/30_encoding.md R68 and the order of R69,
CAPSEL3 and TXSEL5 by the conditions of R69. -/
def Obligations.SelectWordsNameOneRow : Prop :=
  (∀ (f r : Bool) (p : Position), decodeSel9 (sel9Word f r p) =
    if p = 0 then (if f then .syncExit r else .syncHold r)
    else if r = false then .noEdge f p
    else if p = 64 then .capturePedal f
    else if p = 32 ∨ p = 33 then .captureFiller f (p.extractLsb' 0 1)
    else if 34 ≤ p.toNat ∧ p.toNat ≤ 63 then .captureKeyHi f (p.extractLsb' 0 5)
    else if 1 ≤ p.toNat ∧ p.toNat ≤ 31 then .captureKeyLo f (p.extractLsb' 0 5)
    else .unreachablePos f (p.extractLsb' 0 6)) ∧
  (∀ k x e : Bool, decodeCapsel3 (capsel3Word k x e) =
    if k && x then .keyTransition e else if !k && e then .pedalSlot x
    else if k then .idleMarkKey e else .idleMarkFiller x) ∧
  (∀ ev id nz r ne : Bool, decodeTxsel5 (txsel5Word ev id nz r ne) =
    if ev && id && nz then (if r then (if ne then .txByte else .txEventClear) else .txNotReady ne)
    else .txGated ev id nz r ne)

/-! The step -/

/-- A step takes the environment's next move from the trace; its IN5 word decodes to an operation, and the step is
`exec` of that operation on the state with the move used up and the step counted (log entry 1). -/
def Obligations.StepRunsTheDecodedWord : Prop :=
  ∀ (s : State) (w : In5) (rest : List Stimulus) (i : Instr),
    s.trace = .levels w :: rest → decode .in5 [w.setWidth 8] = .ok i →
    step s = exec i { s with trace := rest, tick := s.tick + 1 }

/-- An iteration is SAMPLE, EDGE_DETECT, the operation that the SEL9 word of the result names, PREV_UPDATE and
TX_SCHED, each run by `exec` on what the one before it left, from a state whose wires are clear (log entry 3). -/
def Obligations.IterationRunsTheSelectedOperation : Prop :=
  ∀ (s : State) (w : In5), Admitted s →
    ∃ s1 s2 s3 s4 t,
      exec (.sample w) { s with wires := {} } = .next s1 ∧
      exec (.edgeDetect s1.wires.cur) s1 = .next s2 ∧
      exec (decodeSel9 (sel9Word (s2.wires.fall.getLsbD 2) (s2.wires.rise.getLsbD 0) s2.pos)).instr s2 = .next s3 ∧
      exec (.prevUpdate s1.wires.cur) s3 = .next s4 ∧
      exec (.txSched s1.wires.rdy) s4 = .next t ∧
      exec (.iteration w) s = .next t

/-- R17: the two writes of POS, and no other. By the decided value of SYNC_EXIT_SERVICES_CLOCK (D8). -/
def Obligations.PositionHasTwoWrites : Prop :=
  ∀ (s : State) (w : In5), Admitted s → s.cfg.syncExitServicesClock = false →
    ∃ t, exec (.iteration w) s = .next t ∧
      t.pos =
        if s.pos = 0 then (if s.prev.getLsbD 2 && !w.getLsbD 2 then 1 else 0)
        else if w.getLsbD 0 && !s.prev.getLsbD 0 then BitVec.ofNat 7 ((s.pos.toNat + 1) % 65)
        else s.pos

/-- R80: an iteration leaves the block as it was and sends nothing exactly when CUR == PREV and the scheduler is
gated or the transmitter not ready. -/
def Obligations.QuietIterationsAreThoseWithoutChange : Prop :=
  ∀ (s t : State) (w : In5), Admitted s → exec (.iteration w) s = .next t →
    ((SameBlock s t ∧ t.txLog = s.txLog) ↔
      (w.extractLsb' 0 3 = s.prev ∧
        ¬ (s.event = true ∧ s.idle = true ∧ s.pos ≠ 0 ∧ w.getLsbD 4 = true)))

/-- R14, R87: every iteration leaves its own sample of the lines in PREV. -/
def Obligations.IterationRecordsItsSample : Prop :=
  ∀ (s t : State) (w : In5), exec (.iteration w) s = .next t → t.prev = w.extractLsb' 0 3

/-- R170: an iteration raises at most one signal. -/
def Obligations.IterationRaisesAtMostOneSignal : Prop :=
  ∀ (s t : State) (w : In5), Admitted s → exec (.iteration w) s = .next t → t.wires.signals.length ≤ 1

/-- R20, R21, R158: an iteration that services no edge at a position 1..63 leaves IDLE alone (by the decided value of
SYNC_EXIT_SERVICES_CLOCK, D8), and EVENT goes from 1 to 0 only with the gate open, the transmitter ready and the queue
empty. -/
def Obligations.FlagsChangeOnlyAsTheirRulesSay : Prop :=
  ∀ (s t : State) (w : In5), Admitted s → s.cfg.syncExitServicesClock = false → exec (.iteration w) s = .next t →
    ((s.pos = 0 ∨ s.pos = 64 ∨ (w.getLsbD 0 && !s.prev.getLsbD 0) = false) → t.idle = s.idle) ∧
    (s.event = true → t.event = false →
      t.idle = true ∧ t.pos ≠ 0 ∧ w.getLsbD 4 = true ∧ t.rd = t.wr ∧ t.txWr = false)

/-- R160 (a), (e), R178: a byte is handed over only with the transmitter ready, POS not 0 and both flags set; TX_WR
says whether, and TXLOG grows by that byte and no other. -/
def Obligations.AtMostOneByteLeavesPerIteration : Prop :=
  ∀ (s t : State) (w : In5), Admitted s → exec (.iteration w) s = .next t →
    (t.txWr = false ∧ t.txLog = s.txLog ∧ t.rd = s.rd) ∨
    (t.txWr = true ∧ t.txLog = s.txLog ++ [t.txData] ∧ t.txData = memRead t s.rd ∧ t.rd = (s.rd + 1) % s.cfg.cap ∧
      w.getLsbD 4 = true ∧ t.pos ≠ 0 ∧ t.event = true ∧ t.idle = true)

/-- R23: no operation writes the configuration (carried in State: log entry 2). -/
def Obligations.ConfigurationNeverChanges : Prop :=
  ∀ (i : Instr) (s t : State), exec i s = .next t → t.cfg = s.cfg

/-- R104 (c): away from position 64 the pedal line is not looked at (PEDAL_SOURCE = pedal_line). The two words
differ in the pedal bit only; what is sampled of it stands in the wires. -/
def Obligations.PedalLineMattersAtPosition64Only : Prop :=
  ∀ (s t u : State) (c d y r : Bool), s.cfg.pedalSource = .pedalLine → s.pos ≠ 64 →
    exec (.iteration (BitVec.ofBool r ++ 0#1 ++ BitVec.ofBool y ++ BitVec.ofBool d ++ BitVec.ofBool c)) s = .next t →
    exec (.iteration (BitVec.ofBool r ++ 1#1 ++ BitVec.ofBool y ++ BitVec.ofBool d ++ BitVec.ofBool c)) s = .next u →
    u = { t with wires := u.wires }

/-- R169, R83 (a), R84: POS != 0 masks the sync line and POS == 0 masks the clock (by the decided value of
SYNC_EXIT_SERVICES_CLOCK, D8); the level of the masked line is only recorded in PREV. -/
def Obligations.PositionMasksTheOtherLine : Prop :=
  ∀ (s t u : State) (b d p r : Bool),
    (s.pos ≠ 0 →
      exec (.iteration (BitVec.ofBool r ++ BitVec.ofBool p ++ 0#1 ++ BitVec.ofBool d ++ BitVec.ofBool b)) s = .next t →
      exec (.iteration (BitVec.ofBool r ++ BitVec.ofBool p ++ 1#1 ++ BitVec.ofBool d ++ BitVec.ofBool b)) s = .next u →
      u = { t with prev := u.prev, wires := u.wires }) ∧
    (s.pos = 0 → s.cfg.syncExitServicesClock = false →
      exec (.iteration (BitVec.ofBool r ++ BitVec.ofBool p ++ BitVec.ofBool b ++ BitVec.ofBool d ++ 0#1)) s = .next t →
      exec (.iteration (BitVec.ofBool r ++ BitVec.ofBool p ++ BitVec.ofBool b ++ BitVec.ofBool d ++ 1#1)) s = .next u →
      u = { t with prev := u.prev, wires := u.wires })

/-! Reset and refusals -/

/-- R30: the values the reset table gives. POS, the flags and the sentinel are the document's ("counter 0, all flags
clear, pedal sentinel all-ones"); the table marks the others as the spec's own decisions: KT and SNAP D11, PREV D10,
WR and RD D12, TX_WR D20, and the width of PEDAL_PREV D6. The reset state has PEDAL_RESET_SENTINEL at its decided
value (log entry 2). -/
def Obligations.ResetLeavesTheTableValues : Prop :=
  State.reset.pos = 0 ∧ State.reset.event = false ∧ State.reset.idle = false ∧ State.reset.pedalPrev = 0xFF ∧
  (∀ b, b < 9 → ktByte State.reset b = 0) ∧ State.reset.snap = 0 ∧ State.reset.prev = 0 ∧ State.reset.wr = 0 ∧
  State.reset.rd = 0 ∧ State.reset.txWr = false

/-- R190, R182: RESET in a run returns every register to its value of R30 and empties the queue; TXLOG, the
configuration and the rest of the trace stay (log entry 11). With PEDAL_RESET_SENTINEL = false PEDAL_PREV is 1 (D6,
log entry 9). What RESET does in a state that is not admitted is said by `IllFormedStatesAreRefused`. -/
def Obligations.ResetMoveReturnsToTheTableValues : Prop :=
  ∀ (s : State) (rest : List Stimulus), Admitted s → s.trace = .reset :: rest →
    ∃ t, step s = .next t ∧ t.pos = 0 ∧ t.event = false ∧ t.idle = false ∧
      t.pedalPrev = (if s.cfg.pedalResetSentinel then 0xFF else 0x01) ∧ (∀ b, b < 9 → ktByte t b = 0) ∧ t.snap = 0 ∧
      t.prev = 0 ∧ t.wr = 0 ∧ t.rd = 0 ∧ t.txWr = false ∧ t.txLog = s.txLog ∧ t.cfg = s.cfg ∧ t.trace = rest

/-- R167, R123, R140, R18, R70 (a): every operation, and every step whatever the environment's move, is refused in an
ill-formed configuration or state. That a cursor beyond CAP is refused too is the model's, log entry 14; that a RESET is
refused there, log entry 11. -/
def Obligations.IllFormedStatesAreRefused : Prop :=
  ∀ (i : Instr) (s : State), ¬ Admitted s → (∃ r, exec i s = .refused r) ∧ ∃ r, step s = .refused r

/-- R70, R18: a select word with POS above 64 and a clock edge is refused. -/
def Obligations.UnreachablePositionsAreRefused : Prop :=
  ∀ (f : Bool) (p : BitVec 6) (s : State), exec (.unreachablePos f p) s = .refused .unreachablePos

/-- R100, R103: a capture outside the positions and a key transition outside the key positions are refused. The spec
says they are never run there; that they are refused is the model's, log entry 15. -/
def Obligations.CapturesOutsidePositionsAreRefused : Prop :=
  ∀ (s : State) (p : Position) (d ped e : Bool),
    ((p = 0 ∨ 64 < p.toNat) → exec (.capture p d ped) s = .refused .notAPosition) ∧
    ((s.pos = 0 ∨ 64 < s.pos.toNat) → exec (.edgeService d ped) s = .refused .notAPosition) ∧
    (validKey s.pos = false → exec (.keyTransition e) s = .refused .notAKeyPosition)

/-- R167, R182: from every state that the invariant admits a step has a next state, whatever the environment does:
no condition is fatal. -/
def Obligations.EveryStepGoesOn : Prop :=
  ∀ s : State, StateInv s → ∃ t, step s = .next t

/-! Invariants of every reachable state -/

/-- The reset state has every invariant. CAP and TRANSPOSE are the model's, log entry 2. -/
def Obligations.ResetHasTheInvariants : Prop :=
  StateInv State.reset ∧ EventCoversQueue State.reset ∧ LiveSlotsWritten State.reset ∧ Framed State.reset ∧
    ClearedAhead State.reset

/-- R31 (a) to (e): a step keeps them, with the canonical form of the memory. -/
def Obligations.StepKeepsTheStateInvariants : Prop :=
  ∀ s t : State, StateInv s → step s = .next t → StateInv t

/-- R31 (g), R20: a step keeps "EVENT = 0 implies the queue is empty", where PEDAL_SETS_EVENT has its decided value. -/
def Obligations.StepKeepsEventCoveringTheQueue : Prop :=
  ∀ s t : State, StateInv s → s.cfg.pedalSetsEvent = true → EventCoversQueue s → step s = .next t → EventCoversQueue t

/-- R27, D12: a step keeps every live slot written, so a byte that leaves is never one that R30 leaves unspecified. -/
def Obligations.StepKeepsLiveSlotsWritten : Prop :=
  ∀ s t : State, StateInv s → LiveSlotsWritten s → step s = .next t → LiveSlotsWritten t

/-- R31 (f), R134: a step without a RESET keeps the output stream a concatenation of whole messages, where
ENQUEUE_ATOMIC has its decided value. -/
def Obligations.StepKeepsTheStreamFramed : Prop :=
  ∀ (s t : State) (w : In5) (rest : List Stimulus), StateInv s → s.cfg.enqueueAtomic = true →
    s.trace = .levels w :: rest → Framed s → step s = .next t → Framed t

/-- R101, R102: a step keeps the bits of the current block ahead of POS clear, where FIRST_BLOCK_SNAPSHOT has its
decided value. -/
def Obligations.StepKeepsTheBlockClearedAhead : Prop :=
  ∀ s t : State, StateInv s → s.cfg.firstBlockSnapshot = true → ClearedAhead s → step s = .next t → ClearedAhead t

/-- R88 (a), R107 (b): from POS 1, 64 bits on the wire, each of two samples (clock low, clock high) with the pedal and
ready levels constant, service positions 1..64 in order, leave POS at 0, and leave in the table, for each position,
the bit that was sampled there. Where FIRST_BLOCK_SNAPSHOT has its decided value. -/
def Obligations.PassRecordsEverySampledBit : Prop :=
  ∀ (s : State) (ds : List Bool) (p r : Bool) (rest : List Stimulus),
    StateInv s → s.cfg.firstBlockSnapshot = true → s.pos = 1 → ds.length = 64 →
    s.trace = traceBits ds p r ++ rest →
    ∃ t, Host.Core.run Sys2Proof.core 128 s = .next t ∧ t.pos = 0 ∧ t.trace = rest ∧
      ∀ k, k < 64 → some (ktBit t (k + 1)) = ds[k]?

/-- R107 (a): in a pass that starts in state `s`, the bit a capture compares with at position `k + 1` is the one the
table held for that position when the pass began. Each bit is two samples (clock low, clock high), the pedal and ready
levels are constant, and FIRST_BLOCK_SNAPSHOT has its decided value. -/
def Obligations.PassComparesWithThePreviousPass : Prop :=
  ∀ (s : State) (ds : List Bool) (p r : Bool) (rest : List Stimulus) (k : Nat),
    StateInv s → s.cfg.firstBlockSnapshot = true → s.pos = 1 → ds.length = k → k < 64 →
    s.trace = traceBits ds p r ++ rest →
    ∃ t, Host.Core.run Sys2Proof.core (2 * k) s = .next t ∧ t.pos.toNat = k + 1 ∧
      ∀ v, PreviousByte t t.pos v → v.getLsbD ((k + 1) % 8) = ktBit s (k + 1)

/-! Frame Sampler -/

/-- R81: SAMPLE latches CUR, P and R of one word; P is the data bit with PEDAL_SOURCE = data_line. -/
def Obligations.SampleLatchesTheInputs : Prop :=
  ∀ (s : State) (w : In5), Admitted s →
    exec (.sample w) s = .next { s with
      wires := { s.wires with
        cur := w.extractLsb' 0 3
        ped := if s.cfg.pedalSource = .pedalLine then w.getLsbD 3 else w.getLsbD 1
        rdy := w.getLsbD 4 } }

/-- R82: a line is in RISE when it went 0 to 1, in FALL when it went 1 to 0. -/
def Obligations.EdgesAreChangesAgainstPrev : Prop :=
  ∀ (s : State) (cur : Lines), Admitted s →
    ∃ t, exec (.edgeDetect cur) s = .next t ∧
      (∀ k, t.wires.rise.getLsbD k = (cur.getLsbD k && !s.prev.getLsbD k)) ∧
      (∀ k, t.wires.fall.getLsbD k = (s.prev.getLsbD k && !cur.getLsbD k)) ∧
      t = { s with wires := { s.wires with rise := t.wires.rise, fall := t.wires.fall } }

/-- R83, R86: SYNC_HOLD and NO_EDGE change nothing. In a state that would not select the row: log entry 13. -/
def Obligations.HoldAndNoEdgeChangeNothing : Prop :=
  ∀ (s : State) (f r : Bool) (p : Position), Admitted s →
    exec (.syncHold r) s = .next s ∧ exec (.noEdge f p) s = .next s

/-- R83: SYNC_EXIT sets POS to 1 and changes nothing else, and does not service a clock edge of the same sample (D8).
With SYNC_EXIT_SERVICES_CLOCK = true such an edge is serviced at position 1 (the effect is the model's, log entry 7). In
a state that would not select the row: log entry 13. -/
def Obligations.SyncExitSetsPositionOne : Prop :=
  ∀ (s : State) (r : Bool), Admitted s →
    ((s.cfg.syncExitServicesClock = false ∨ r = false) → exec (.syncExit r) s = .next { s with pos := 1 }) ∧
    (s.cfg.syncExitServicesClock = true → r = true →
      ∃ t, exec (.edgeService (s.wires.cur.getLsbD 1) s.wires.ped) { s with pos := 1 } = .next t ∧
        exec (.syncExit r) s = .next t)

/-- R85: ADVANCE. That it advances from POS 0 too, when run by itself, is the model's, log entry 13. -/
def Obligations.AdvanceWrapsAfter64 : Prop :=
  ∀ s : State, Admitted s →
    ∃ t, exec .advance s = .next t ∧ t.pos.toNat = (if s.pos = 64 then 0 else s.pos.toNat + 1) ∧
      t = { s with pos := t.pos }

/-- R87: PREV_UPDATE. -/
def Obligations.PrevUpdateStoresTheSample : Prop :=
  ∀ (s : State) (cur : Lines), Admitted s → exec (.prevUpdate cur) s = .next { s with prev := cur }

/-- R84: EDGE_SERVICE is CAPTURE at POS, then ADVANCE. That it does so whatever RISE holds, when run by itself, is the
model's, log entry 13. -/
def Obligations.EdgeServiceCapturesThenAdvances : Prop :=
  ∀ (s : State) (d ped : Bool), Admitted s → s.pos ≠ 0 →
    ∃ u t, exec (.capture s.pos d ped) s = .next u ∧ exec .advance u = .next t ∧
      exec (.edgeService d ped) s = .next t

/-- R69 rows 4 to 7, R84: each CAPTURE row is EDGE_SERVICE at the position its word holds, with the sampled data and
pedal bits; the sync edge `f` is ignored. That the position is taken from the word is the model's, log entry 13. -/
def Obligations.CaptureRowsServiceTheirPosition : Prop :=
  ∀ (s : State) (i : Instr) (f : Bool) (p : Position), Admitted s → i.wf = true →
    ((i = .capturePedal f ∧ p = 64) ∨ (∃ q, i = .captureFiller f q ∧ p.toNat = 32 + q.toNat) ∨
      (∃ q, i = .captureKeyHi f q ∧ p.toNat = 32 + q.toNat) ∨ (∃ q, i = .captureKeyLo f q ∧ p.toNat = q.toNat)) →
    ∃ u t, exec (.capture p (s.wires.cur.getLsbD 1) s.wires.ped) s = .next u ∧ exec .advance u = .next t ∧
      exec i s = .next t

/-! Transition Detector -/

/-- R101: BLOCK_SNAPSHOT moves the live byte of its block to SNAP and clears it. In a state that would not select the
row: log entry 13. -/
def Obligations.SnapshotMovesAndClearsTheByte : Prop :=
  ∀ (s : State) (i : Instr) (b : Fin 9), Admitted s → (i = .blockSnapshotBlock b ∨ i = .blockSnapshotFirst ∧ b = 0) →
    ∃ t, exec i s = .next t ∧ t.snap = ktByte s b ∧ ktByte t b = 0 ∧ (∀ c, c ≠ b.val → ktByte t c = ktByte s c) ∧
      t = { s with snap := t.snap, kt := t.kt }

/-- R102: BIT_STORE ORs the data bit into the live byte, and never clears. -/
def Obligations.BitStoreOrsTheBit : Prop :=
  ∀ (s : State) (b : Fin 9) (k : Fin 8) (d : Bool), Admitted s →
    ∃ t, exec (.bitStore b k d) s = .next t ∧
      (∀ j, (ktByte t b).getLsbD j = ((ktByte s b).getLsbD j || (d && decide (j = k.val)))) ∧
      (∀ c, c ≠ b.val → ktByte t c = ktByte s c) ∧ t = { s with kt := t.kt }

/-- R100 to R103, R105: a capture at a key position. The byte of the previous pass is kept in SNAP, the data bit is
stored, and its difference from the previous pass decides between a key transition with its message and an idle mark.
The stored slots of Q are the three from WR. What the two switches do at their other value is the model's (DEDUCED):
ENQUEUE_ATOMIC = false in `Offered`, log entry 8; FIRST_BLOCK_SNAPSHOT = false in `SnapshotAt`, log entry 10. -/
def Obligations.CaptureAtAKeyPosition : Prop :=
  ∀ (s : State) (p : Position) (d ped : Bool) (old live : Byte) (n : BitVec 7), Admitted s →
    ((1 ≤ p.toNat ∧ p.toNat ≤ 31 ∧ (n.toNat : Int) = s.cfg.transpose + 98 - 2 * p.toNat) ∨
      (34 ≤ p.toNat ∧ p.toNat ≤ 63 ∧ (n.toNat : Int) = s.cfg.transpose + 101 - 2 * (p.toNat - 31))) →
    PreviousByte s p old → LiveByte s p live →
    ∃ t, exec (.capture p d ped) s = .next t ∧ t.snap = old ∧
      ktByte t (p.toNat / 8) = live ||| (bitByte d <<< (p.toNat % 8)) ∧
      (∀ c, c ≠ p.toNat / 8 → ktByte t c = ktByte s c) ∧
      (d = old.getLsbD (p.toNat % 8) →
        t = { s with snap := t.snap, kt := t.kt, idle := true }) ∧
      (d ≠ old.getLsbD (p.toNat % 8) →
        t = { s with
          snap := t.snap, kt := t.kt, event := true, idle := false, wr := t.wr, q := t.q,
          wires := { s.wires with signals := t.wires.signals } } ∧
        Offered (if d then ⟨0x90, n.setWidth 8, 0x40⟩ else ⟨0x80, n.setWidth 8, 0x00⟩) s t)

/-- R105, R71: a capture at a filler position never produces a message, whatever the bit does. -/
def Obligations.CaptureAtAFillerPosition : Prop :=
  ∀ (s : State) (p : Position) (d ped : Bool) (old live : Byte), Admitted s → (p = 32 ∨ p = 33) →
    PreviousByte s p old → LiveByte s p live →
    ∃ t, exec (.capture p d ped) s = .next t ∧ t.snap = old ∧
      ktByte t 4 = live ||| (bitByte d <<< (p.toNat % 8)) ∧ (∀ c, c ≠ 4 → ktByte t c = ktByte s c) ∧
      t = { s with snap := t.snap, kt := t.kt, idle := true }

/-- R100, R104: a capture at position 64 stores the data bit and compares the pedal bit with PEDAL_PREV, not with the
table. The effect of ENQUEUE_ATOMIC = false in `Offered` is the model's (DEDUCED), log entry 8. -/
def Obligations.CaptureAtThePedalPosition : Prop :=
  ∀ (s : State) (d ped : Bool), Admitted s →
    ∃ t, exec (.capture 64 d ped) s = .next t ∧ t.snap = ktByte s 8 ∧ ktByte t 8 = bitByte d ∧
      (∀ c, c ≠ 8 → ktByte t c = ktByte s c) ∧ t.pedalPrev = bitByte ped ∧
      (s.pedalPrev = bitByte ped →
        t = { s with snap := t.snap, kt := t.kt, pedalPrev := t.pedalPrev }) ∧
      (s.pedalPrev ≠ bitByte ped →
        t = { s with
          snap := t.snap, kt := t.kt, pedalPrev := t.pedalPrev, event := (s.cfg.pedalSetsEvent || s.event),
          wr := t.wr, q := t.q, wires := { s.wires with signals := t.wires.signals } } ∧
        Offered ⟨0xB0, 0x40, if ped then 0x7F else 0x00⟩ s t)

/-- R103: KEY_TRANSITION at the key position POS holds, with the sampled data bit (operands from POS and the wires,
and in a state that would not select the row: log entry 13). The effect of ENQUEUE_ATOMIC = false in `Offered` is the
model's (DEDUCED), log entry 8. -/
def Obligations.KeyTransitionSetsFlagsAndEnqueues : Prop :=
  ∀ (s : State) (e : Bool) (n : BitVec 7), Admitted s →
    ((1 ≤ s.pos.toNat ∧ s.pos.toNat ≤ 31 ∧ (n.toNat : Int) = s.cfg.transpose + 98 - 2 * s.pos.toNat) ∨
      (34 ≤ s.pos.toNat ∧ s.pos.toNat ≤ 63 ∧ (n.toNat : Int) = s.cfg.transpose + 101 - 2 * (s.pos.toNat - 31))) →
    ∃ t, exec (.keyTransition e) s = .next t ∧
      t = { s with
        event := true, idle := false, wr := t.wr, q := t.q,
        wires := { s.wires with signals := t.wires.signals } } ∧
      Offered (if s.wires.cur.getLsbD 1 then ⟨0x90, n.setWidth 8, 0x40⟩ else ⟨0x80, n.setWidth 8, 0x00⟩) s t

/-- R104: PEDAL_SLOT with the sampled pedal bit (from the wires, log entry 13); the new level is stored whether or not
it changed and whether or not the message found room. The effect of ENQUEUE_ATOMIC = false in `Offered` is the model's
(DEDUCED), log entry 8. -/
def Obligations.PedalSlotEnqueuesOnChange : Prop :=
  ∀ (s : State) (x : Bool), Admitted s →
    ∃ t, exec (.pedalSlot x) s = .next t ∧ t.pedalPrev = bitByte s.wires.ped ∧
      (s.pedalPrev = bitByte s.wires.ped → t = { s with pedalPrev := t.pedalPrev }) ∧
      (s.pedalPrev ≠ bitByte s.wires.ped →
        t = { s with
          pedalPrev := t.pedalPrev, event := (s.cfg.pedalSetsEvent || s.event), wr := t.wr, q := t.q,
          wires := { s.wires with signals := t.wires.signals } } ∧
        Offered ⟨0xB0, 0x40, if s.wires.ped then 0x7F else 0x00⟩ s t)

/-- R105: both rows of IDLE_MARK set IDLE and nothing else. In a state that would not select the row: log entry 13. -/
def Obligations.IdleMarkSetsIdleOnly : Prop :=
  ∀ (s : State) (x : Bool), Admitted s →
    exec (.idleMarkKey x) s = .next { s with idle := true } ∧
    exec (.idleMarkFiller x) s = .next { s with idle := true }

/-- R106: VALID_KEY. -/
def Obligations.ValidKeyIsTheKeyRange : Prop :=
  ∀ (s : State) (p : Position), Admitted s →
    exec (.validKey p) s = .next { s with
      wires := { s.wires with
        result := .truth (decide ((1 ≤ p.toNat ∧ p.toNat ≤ 31) ∨ (34 ≤ p.toNat ∧ p.toNat ≤ 63))) } }

/-! Note Mapper -/

/-- R120: the two formulas of NOTE. That NOTE completes with no value at 0, 32, 33, 64 and beyond is the model's
choice, log entry 15: the spec says only that it is not defined and never called there. -/
def Obligations.NoteFollowsTheTwoFormulas : Prop :=
  ∀ (s : State) (p : Position), Admitted s →
    exec (.note p) s = .next { s with
      wires := { s.wires with
        result := .note
          (if 1 ≤ p.toNat ∧ p.toNat ≤ 31 then some (s.cfg.transpose + 98 - 2 * p.toNat)
            else if 34 ≤ p.toNat ∧ p.toNat ≤ 63 then some (s.cfg.transpose + 101 - 2 * (p.toNat - 31))
            else none) } }

/-- R123: in an admitted configuration every note fits the 7 bits of its message. -/
def Obligations.NotesFitTheMessage : Prop :=
  ∀ (c : Config) (p : Position) (n : Int), c.transposeOk → note p c.transpose = some n →
    0 ≤ n ∧ n ≤ 127 ∧ ((noteBits n).toNat : Int) = n

/-- R122: for one transpose no two positions have the same note, and every integer from T + 36 to T + 96 is the note
of one. -/
def Obligations.NotesAreOneToOne : Prop :=
  (∀ (p q : Position) (t n : Int), note p t = some n → note q t = some n → p = q) ∧
  (∀ t n : Int, t + 36 ≤ n → n ≤ t + 96 → ∃ p, note p t = some n)

/-! Message Encoder -/

/-- R130, R131, R132: the three packings, byte 0 first; and that their bytes decode to the message words of R62, R63
and R64. -/
def Obligations.MessagesHaveTheirBytes : Prop :=
  ∀ (s : State) (n : BitVec 7) (ped : Bool), Admitted s →
    exec (.msgNoteOn n) s =
      .next { s with wires := { s.wires with result := .message ⟨0x90, n.setWidth 8, 0x40⟩ } } ∧
    exec (.msgNoteOff n) s =
      .next { s with wires := { s.wires with result := .message ⟨0x80, n.setWidth 8, 0x00⟩ } } ∧
    exec (.msgCcDamper ped) s =
      .next { s with wires := { s.wires with result := .message ⟨0xB0, 0x40, if ped then 0x7F else 0x00⟩ } } ∧
    decode .msg24 [0x90, n.setWidth 8, 0x40] = .ok (.noteOn n) ∧
    decode .msg24 [0x80, n.setWidth 8, 0x00] = .ok (.noteOff n) ∧
    decode .msg24 [0xB0, 0x40, if ped then 0x7F else 0x00] = .ok (if ped then .ccDamperReleased else .ccDamperPressed)

/-- R133: ENQUEUE_MSG queues a message whole or drops it whole; `Offered` names the stored slots. The effect of
ENQUEUE_ATOMIC = false in `Offered` is the model's (DEDUCED), log entry 8. -/
def Obligations.MessageIsQueuedWholeOrDropped : Prop :=
  ∀ (s : State) (b0 b1 b2 : Byte), Admitted s →
    ∃ t, exec (.enqueueMsg b0 b1 b2) s = .next t ∧ Offered ⟨b0, b1, b2⟩ s t ∧
      t = { s with wr := t.wr, q := t.q, wires := { s.wires with signals := t.wires.signals } }

/-- A message word run as an operation is handed to ENQUEUE_MSG with its bytes of R62 to R64. That this is its meaning
is the model's, log entry 12. -/
def Obligations.MessageWordsAreEnqueued : Prop :=
  ∀ (s : State) (i : Instr) (n : BitVec 7) (b0 b1 b2 : Byte), Admitted s →
    ((i = .noteOn n ∧ b0 = 0x90 ∧ b1 = n.setWidth 8 ∧ b2 = 0x40) ∨
      (i = .noteOff n ∧ b0 = 0x80 ∧ b1 = n.setWidth 8 ∧ b2 = 0x00) ∨
      (i = .ccDamperReleased ∧ b0 = 0xB0 ∧ b1 = 0x40 ∧ b2 = 0x7F) ∨
      (i = .ccDamperPressed ∧ b0 = 0xB0 ∧ b1 = 0x40 ∧ b2 = 0x00)) →
    ∃ t, exec i s = .next t ∧ exec (.enqueueMsg b0 b1 b2) s = .next t

/-! Output Queue -/

/-- R144: ENQUEUE stores at WR and advances it, or fails with nothing changed. -/
def Obligations.EnqueueStoresAtTheWriteCursor : Prop :=
  ∀ (s : State) (v : Byte), Admitted s →
    ((s.wr + 1) % s.cfg.cap = s.rd →
      exec (.enqueue v) s = .next { s with wires := { s.wires with result := .fail } }) ∧
    ((s.wr + 1) % s.cfg.cap ≠ s.rd →
      ∃ t, exec (.enqueue v) s = .next t ∧ t.wr = (s.wr + 1) % s.cfg.cap ∧ memRead t s.wr = v ∧
        (∀ a, a ≠ s.wr → memRead t a = memRead s a) ∧ liveBytes t = liveBytes s ++ [v] ∧
        t = { s with wr := t.wr, q := t.q, wires := { s.wires with result := .ok } })

/-- R145: DEQUEUE returns the byte at RD and advances it, or raises QueueEmpty with nothing changed. No byte of Q is
written. The wrap of RD modulo CAP is marked derived in R145 ("the document states the wrap only for the write
cursor"). -/
def Obligations.DequeueReturnsTheOldestByte : Prop :=
  ∀ s : State, Admitted s →
    (s.rd = s.wr →
      exec .dequeue s = .next { s with
        wires := { s.wires with signals := s.wires.signals ++ [.queueEmpty], result := .fail } }) ∧
    (s.rd ≠ s.wr →
      ∃ t, exec .dequeue s = .next t ∧ liveBytes s = memRead s s.rd :: liveBytes t ∧
        t = { s with
          rd := (s.rd + 1) % s.cfg.cap, wires := { s.wires with result := .byte (memRead s s.rd) } })

/-- R141, R142, R143: the four measures, with the equivalences the rules give. R141 marks COUNT and FREE as derived
("not named in the document; they follow from the cursor rules"). -/
def Obligations.QueueMeasuresAgree : Prop :=
  ∀ s : State, Admitted s → ∃ k, k < s.cfg.cap ∧ (s.rd + k) % s.cfg.cap = s.wr ∧
    exec .count s = .next { s with wires := { s.wires with result := .number k } } ∧
    exec .free s = .next { s with wires := { s.wires with result := .number (s.cfg.cap - 1 - k) } } ∧
    exec .full s = .next { s with wires := { s.wires with result := .truth (decide (k = s.cfg.cap - 1)) } } ∧
    exec .empty s = .next { s with wires := { s.wires with result := .truth (decide (k = 0)) } }

/-- R147: N bytes enqueued into an empty queue, N at most CAP - 1, are all accepted, and N dequeues return them in the
same order, from any position of the cursors. -/
def Obligations.QueueIsFirstInFirstOut : Prop :=
  ∀ (s : State) (vs : List Byte), Admitted s → s.rd = s.wr → vs.length ≤ s.cfg.cap - 1 →
    ∃ t, execAll (vs.map .enqueue) s = .next t ∧ liveBytes t = vs ∧ drain vs.length t = some vs

/-! Transmit Scheduler -/

/-- R155: TX_SCHED, its outcomes and what each leaves; TX_DATA is not constrained where no byte is sent. -/
def Obligations.SchedulerFollowsItsGate : Prop :=
  ∀ (s : State) (r : Bool), Admitted s →
    ∃ t, exec (.txSched r) s = .next t ∧
      (s.event = true ∧ s.idle = true ∧ s.pos ≠ 0 ∧ r = true →
        (s.rd ≠ s.wr → exec .txByte s = .next t) ∧ (s.rd = s.wr → exec .txEventClear s = .next t)) ∧
      (¬ (s.event = true ∧ s.idle = true ∧ s.pos ≠ 0 ∧ r = true) →
        t = { s with txWr := false, txData := t.txData })

/-- R157: TX_BYTE hands over the byte at RD. EVENT stays. In a state that would not select the row (a closed gate, an
empty queue): log entry 13. -/
def Obligations.TxByteHandsOverTheOldestByte : Prop :=
  ∀ s : State, Admitted s →
    exec .txByte s = .next { s with
      rd := (s.rd + 1) % s.cfg.cap, txData := memRead s s.rd, txWr := true, txLog := s.txLog ++ [memRead s s.rd] }

/-- R158: TX_EVENT_CLEAR raises QueueEmpty, clears EVENT and sends nothing. In a state that would not select the row:
log entry 13. -/
def Obligations.TxEventClearEndsABurst : Prop :=
  ∀ s : State, Admitted s →
    ∃ t, exec .txEventClear s = .next t ∧
      t = { s with
        event := false, txWr := false, txData := t.txData,
        wires := { s.wires with signals := s.wires.signals ++ [.queueEmpty] } }

/-- R156, R159: TX_GATED and TX_NOT_READY change nothing of the block and send nothing. In a state that would not select
the row: log entry 13. -/
def Obligations.GatedAndNotReadySendNothing : Prop :=
  ∀ (s : State) (i : Instr) (ev id nz r ne : Bool), Admitted s → (i = .txNotReady ne ∨ i = .txGated ev id nz r ne) →
    ∃ t, exec i s = .next t ∧ t = { s with txWr := false, txData := t.txData }
end

