-- ==== Sys2Proof/Laws/State.lean ====
section
/-! SUPPORT. One lemma per field per register write, so that no later proof unfolds a record update. -/

namespace Sys2Proof.Machine

@[simp] theorem setPos_pos (v : Position) (s : State) : (setPos v s).pos = v := rfl
@[simp] theorem setPos_kt (v : Position) (s : State) : (setPos v s).kt = s.kt := rfl
@[simp] theorem setPos_snap (v : Position) (s : State) : (setPos v s).snap = s.snap := rfl
@[simp] theorem setPos_pedalPrev (v : Position) (s : State) : (setPos v s).pedalPrev = s.pedalPrev := rfl
@[simp] theorem setPos_prev (v : Position) (s : State) : (setPos v s).prev = s.prev := rfl
@[simp] theorem setPos_event (v : Position) (s : State) : (setPos v s).event = s.event := rfl
@[simp] theorem setPos_idle (v : Position) (s : State) : (setPos v s).idle = s.idle := rfl
@[simp] theorem setPos_wr (v : Position) (s : State) : (setPos v s).wr = s.wr := rfl
@[simp] theorem setPos_rd (v : Position) (s : State) : (setPos v s).rd = s.rd := rfl
@[simp] theorem setPos_q (v : Position) (s : State) : (setPos v s).q = s.q := rfl
@[simp] theorem setPos_txData (v : Position) (s : State) : (setPos v s).txData = s.txData := rfl
@[simp] theorem setPos_txWr (v : Position) (s : State) : (setPos v s).txWr = s.txWr := rfl
@[simp] theorem setPos_cfg (v : Position) (s : State) : (setPos v s).cfg = s.cfg := rfl
@[simp] theorem setPos_wires (v : Position) (s : State) : (setPos v s).wires = s.wires := rfl
@[simp] theorem setPos_txLog (v : Position) (s : State) : (setPos v s).txLog = s.txLog := rfl
@[simp] theorem setPos_trace (v : Position) (s : State) : (setPos v s).trace = s.trace := rfl
@[simp] theorem setPos_tick (v : Position) (s : State) : (setPos v s).tick = s.tick := rfl

@[simp] theorem setKt_pos (v : Vector Byte 9) (s : State) : (setKt v s).pos = s.pos := rfl
@[simp] theorem setKt_kt (v : Vector Byte 9) (s : State) : (setKt v s).kt = v := rfl
@[simp] theorem setKt_snap (v : Vector Byte 9) (s : State) : (setKt v s).snap = s.snap := rfl
@[simp] theorem setKt_pedalPrev (v : Vector Byte 9) (s : State) : (setKt v s).pedalPrev = s.pedalPrev := rfl
@[simp] theorem setKt_prev (v : Vector Byte 9) (s : State) : (setKt v s).prev = s.prev := rfl
@[simp] theorem setKt_event (v : Vector Byte 9) (s : State) : (setKt v s).event = s.event := rfl
@[simp] theorem setKt_idle (v : Vector Byte 9) (s : State) : (setKt v s).idle = s.idle := rfl
@[simp] theorem setKt_wr (v : Vector Byte 9) (s : State) : (setKt v s).wr = s.wr := rfl
@[simp] theorem setKt_rd (v : Vector Byte 9) (s : State) : (setKt v s).rd = s.rd := rfl
@[simp] theorem setKt_q (v : Vector Byte 9) (s : State) : (setKt v s).q = s.q := rfl
@[simp] theorem setKt_txData (v : Vector Byte 9) (s : State) : (setKt v s).txData = s.txData := rfl
@[simp] theorem setKt_txWr (v : Vector Byte 9) (s : State) : (setKt v s).txWr = s.txWr := rfl
@[simp] theorem setKt_cfg (v : Vector Byte 9) (s : State) : (setKt v s).cfg = s.cfg := rfl
@[simp] theorem setKt_wires (v : Vector Byte 9) (s : State) : (setKt v s).wires = s.wires := rfl
@[simp] theorem setKt_txLog (v : Vector Byte 9) (s : State) : (setKt v s).txLog = s.txLog := rfl
@[simp] theorem setKt_trace (v : Vector Byte 9) (s : State) : (setKt v s).trace = s.trace := rfl
@[simp] theorem setKt_tick (v : Vector Byte 9) (s : State) : (setKt v s).tick = s.tick := rfl

@[simp] theorem setSnap_pos (v : Byte) (s : State) : (setSnap v s).pos = s.pos := rfl
@[simp] theorem setSnap_kt (v : Byte) (s : State) : (setSnap v s).kt = s.kt := rfl
@[simp] theorem setSnap_snap (v : Byte) (s : State) : (setSnap v s).snap = v := rfl
@[simp] theorem setSnap_pedalPrev (v : Byte) (s : State) : (setSnap v s).pedalPrev = s.pedalPrev := rfl
@[simp] theorem setSnap_prev (v : Byte) (s : State) : (setSnap v s).prev = s.prev := rfl
@[simp] theorem setSnap_event (v : Byte) (s : State) : (setSnap v s).event = s.event := rfl
@[simp] theorem setSnap_idle (v : Byte) (s : State) : (setSnap v s).idle = s.idle := rfl
@[simp] theorem setSnap_wr (v : Byte) (s : State) : (setSnap v s).wr = s.wr := rfl
@[simp] theorem setSnap_rd (v : Byte) (s : State) : (setSnap v s).rd = s.rd := rfl
@[simp] theorem setSnap_q (v : Byte) (s : State) : (setSnap v s).q = s.q := rfl
@[simp] theorem setSnap_txData (v : Byte) (s : State) : (setSnap v s).txData = s.txData := rfl
@[simp] theorem setSnap_txWr (v : Byte) (s : State) : (setSnap v s).txWr = s.txWr := rfl
@[simp] theorem setSnap_cfg (v : Byte) (s : State) : (setSnap v s).cfg = s.cfg := rfl
@[simp] theorem setSnap_wires (v : Byte) (s : State) : (setSnap v s).wires = s.wires := rfl
@[simp] theorem setSnap_txLog (v : Byte) (s : State) : (setSnap v s).txLog = s.txLog := rfl
@[simp] theorem setSnap_trace (v : Byte) (s : State) : (setSnap v s).trace = s.trace := rfl
@[simp] theorem setSnap_tick (v : Byte) (s : State) : (setSnap v s).tick = s.tick := rfl

@[simp] theorem setPedalPrev_pos (v : Byte) (s : State) : (setPedalPrev v s).pos = s.pos := rfl
@[simp] theorem setPedalPrev_kt (v : Byte) (s : State) : (setPedalPrev v s).kt = s.kt := rfl
@[simp] theorem setPedalPrev_snap (v : Byte) (s : State) : (setPedalPrev v s).snap = s.snap := rfl
@[simp] theorem setPedalPrev_pedalPrev (v : Byte) (s : State) : (setPedalPrev v s).pedalPrev = v := rfl
@[simp] theorem setPedalPrev_prev (v : Byte) (s : State) : (setPedalPrev v s).prev = s.prev := rfl
@[simp] theorem setPedalPrev_event (v : Byte) (s : State) : (setPedalPrev v s).event = s.event := rfl
@[simp] theorem setPedalPrev_idle (v : Byte) (s : State) : (setPedalPrev v s).idle = s.idle := rfl
@[simp] theorem setPedalPrev_wr (v : Byte) (s : State) : (setPedalPrev v s).wr = s.wr := rfl
@[simp] theorem setPedalPrev_rd (v : Byte) (s : State) : (setPedalPrev v s).rd = s.rd := rfl
@[simp] theorem setPedalPrev_q (v : Byte) (s : State) : (setPedalPrev v s).q = s.q := rfl
@[simp] theorem setPedalPrev_txData (v : Byte) (s : State) : (setPedalPrev v s).txData = s.txData := rfl
@[simp] theorem setPedalPrev_txWr (v : Byte) (s : State) : (setPedalPrev v s).txWr = s.txWr := rfl
@[simp] theorem setPedalPrev_cfg (v : Byte) (s : State) : (setPedalPrev v s).cfg = s.cfg := rfl
@[simp] theorem setPedalPrev_wires (v : Byte) (s : State) : (setPedalPrev v s).wires = s.wires := rfl
@[simp] theorem setPedalPrev_txLog (v : Byte) (s : State) : (setPedalPrev v s).txLog = s.txLog := rfl
@[simp] theorem setPedalPrev_trace (v : Byte) (s : State) : (setPedalPrev v s).trace = s.trace := rfl
@[simp] theorem setPedalPrev_tick (v : Byte) (s : State) : (setPedalPrev v s).tick = s.tick := rfl

@[simp] theorem setPrev_pos (v : Lines) (s : State) : (setPrev v s).pos = s.pos := rfl
@[simp] theorem setPrev_kt (v : Lines) (s : State) : (setPrev v s).kt = s.kt := rfl
@[simp] theorem setPrev_snap (v : Lines) (s : State) : (setPrev v s).snap = s.snap := rfl
@[simp] theorem setPrev_pedalPrev (v : Lines) (s : State) : (setPrev v s).pedalPrev = s.pedalPrev := rfl
@[simp] theorem setPrev_prev (v : Lines) (s : State) : (setPrev v s).prev = v := rfl
@[simp] theorem setPrev_event (v : Lines) (s : State) : (setPrev v s).event = s.event := rfl
@[simp] theorem setPrev_idle (v : Lines) (s : State) : (setPrev v s).idle = s.idle := rfl
@[simp] theorem setPrev_wr (v : Lines) (s : State) : (setPrev v s).wr = s.wr := rfl
@[simp] theorem setPrev_rd (v : Lines) (s : State) : (setPrev v s).rd = s.rd := rfl
@[simp] theorem setPrev_q (v : Lines) (s : State) : (setPrev v s).q = s.q := rfl
@[simp] theorem setPrev_txData (v : Lines) (s : State) : (setPrev v s).txData = s.txData := rfl
@[simp] theorem setPrev_txWr (v : Lines) (s : State) : (setPrev v s).txWr = s.txWr := rfl
@[simp] theorem setPrev_cfg (v : Lines) (s : State) : (setPrev v s).cfg = s.cfg := rfl
@[simp] theorem setPrev_wires (v : Lines) (s : State) : (setPrev v s).wires = s.wires := rfl
@[simp] theorem setPrev_txLog (v : Lines) (s : State) : (setPrev v s).txLog = s.txLog := rfl
@[simp] theorem setPrev_trace (v : Lines) (s : State) : (setPrev v s).trace = s.trace := rfl
@[simp] theorem setPrev_tick (v : Lines) (s : State) : (setPrev v s).tick = s.tick := rfl

@[simp] theorem setEvent_pos (v : Bool) (s : State) : (setEvent v s).pos = s.pos := rfl
@[simp] theorem setEvent_kt (v : Bool) (s : State) : (setEvent v s).kt = s.kt := rfl
@[simp] theorem setEvent_snap (v : Bool) (s : State) : (setEvent v s).snap = s.snap := rfl
@[simp] theorem setEvent_pedalPrev (v : Bool) (s : State) : (setEvent v s).pedalPrev = s.pedalPrev := rfl
@[simp] theorem setEvent_prev (v : Bool) (s : State) : (setEvent v s).prev = s.prev := rfl
@[simp] theorem setEvent_event (v : Bool) (s : State) : (setEvent v s).event = v := rfl
@[simp] theorem setEvent_idle (v : Bool) (s : State) : (setEvent v s).idle = s.idle := rfl
@[simp] theorem setEvent_wr (v : Bool) (s : State) : (setEvent v s).wr = s.wr := rfl
@[simp] theorem setEvent_rd (v : Bool) (s : State) : (setEvent v s).rd = s.rd := rfl
@[simp] theorem setEvent_q (v : Bool) (s : State) : (setEvent v s).q = s.q := rfl
@[simp] theorem setEvent_txData (v : Bool) (s : State) : (setEvent v s).txData = s.txData := rfl
@[simp] theorem setEvent_txWr (v : Bool) (s : State) : (setEvent v s).txWr = s.txWr := rfl
@[simp] theorem setEvent_cfg (v : Bool) (s : State) : (setEvent v s).cfg = s.cfg := rfl
@[simp] theorem setEvent_wires (v : Bool) (s : State) : (setEvent v s).wires = s.wires := rfl
@[simp] theorem setEvent_txLog (v : Bool) (s : State) : (setEvent v s).txLog = s.txLog := rfl
@[simp] theorem setEvent_trace (v : Bool) (s : State) : (setEvent v s).trace = s.trace := rfl
@[simp] theorem setEvent_tick (v : Bool) (s : State) : (setEvent v s).tick = s.tick := rfl

@[simp] theorem setIdle_pos (v : Bool) (s : State) : (setIdle v s).pos = s.pos := rfl
@[simp] theorem setIdle_kt (v : Bool) (s : State) : (setIdle v s).kt = s.kt := rfl
@[simp] theorem setIdle_snap (v : Bool) (s : State) : (setIdle v s).snap = s.snap := rfl
@[simp] theorem setIdle_pedalPrev (v : Bool) (s : State) : (setIdle v s).pedalPrev = s.pedalPrev := rfl
@[simp] theorem setIdle_prev (v : Bool) (s : State) : (setIdle v s).prev = s.prev := rfl
@[simp] theorem setIdle_event (v : Bool) (s : State) : (setIdle v s).event = s.event := rfl
@[simp] theorem setIdle_idle (v : Bool) (s : State) : (setIdle v s).idle = v := rfl
@[simp] theorem setIdle_wr (v : Bool) (s : State) : (setIdle v s).wr = s.wr := rfl
@[simp] theorem setIdle_rd (v : Bool) (s : State) : (setIdle v s).rd = s.rd := rfl
@[simp] theorem setIdle_q (v : Bool) (s : State) : (setIdle v s).q = s.q := rfl
@[simp] theorem setIdle_txData (v : Bool) (s : State) : (setIdle v s).txData = s.txData := rfl
@[simp] theorem setIdle_txWr (v : Bool) (s : State) : (setIdle v s).txWr = s.txWr := rfl
@[simp] theorem setIdle_cfg (v : Bool) (s : State) : (setIdle v s).cfg = s.cfg := rfl
@[simp] theorem setIdle_wires (v : Bool) (s : State) : (setIdle v s).wires = s.wires := rfl
@[simp] theorem setIdle_txLog (v : Bool) (s : State) : (setIdle v s).txLog = s.txLog := rfl
@[simp] theorem setIdle_trace (v : Bool) (s : State) : (setIdle v s).trace = s.trace := rfl
@[simp] theorem setIdle_tick (v : Bool) (s : State) : (setIdle v s).tick = s.tick := rfl

@[simp] theorem setWr_pos (v : Nat) (s : State) : (setWr v s).pos = s.pos := rfl
@[simp] theorem setWr_kt (v : Nat) (s : State) : (setWr v s).kt = s.kt := rfl
@[simp] theorem setWr_snap (v : Nat) (s : State) : (setWr v s).snap = s.snap := rfl
@[simp] theorem setWr_pedalPrev (v : Nat) (s : State) : (setWr v s).pedalPrev = s.pedalPrev := rfl
@[simp] theorem setWr_prev (v : Nat) (s : State) : (setWr v s).prev = s.prev := rfl
@[simp] theorem setWr_event (v : Nat) (s : State) : (setWr v s).event = s.event := rfl
@[simp] theorem setWr_idle (v : Nat) (s : State) : (setWr v s).idle = s.idle := rfl
@[simp] theorem setWr_wr (v : Nat) (s : State) : (setWr v s).wr = v := rfl
@[simp] theorem setWr_rd (v : Nat) (s : State) : (setWr v s).rd = s.rd := rfl
@[simp] theorem setWr_q (v : Nat) (s : State) : (setWr v s).q = s.q := rfl
@[simp] theorem setWr_txData (v : Nat) (s : State) : (setWr v s).txData = s.txData := rfl
@[simp] theorem setWr_txWr (v : Nat) (s : State) : (setWr v s).txWr = s.txWr := rfl
@[simp] theorem setWr_cfg (v : Nat) (s : State) : (setWr v s).cfg = s.cfg := rfl
@[simp] theorem setWr_wires (v : Nat) (s : State) : (setWr v s).wires = s.wires := rfl
@[simp] theorem setWr_txLog (v : Nat) (s : State) : (setWr v s).txLog = s.txLog := rfl
@[simp] theorem setWr_trace (v : Nat) (s : State) : (setWr v s).trace = s.trace := rfl
@[simp] theorem setWr_tick (v : Nat) (s : State) : (setWr v s).tick = s.tick := rfl

@[simp] theorem setRd_pos (v : Nat) (s : State) : (setRd v s).pos = s.pos := rfl
@[simp] theorem setRd_kt (v : Nat) (s : State) : (setRd v s).kt = s.kt := rfl
@[simp] theorem setRd_snap (v : Nat) (s : State) : (setRd v s).snap = s.snap := rfl
@[simp] theorem setRd_pedalPrev (v : Nat) (s : State) : (setRd v s).pedalPrev = s.pedalPrev := rfl
@[simp] theorem setRd_prev (v : Nat) (s : State) : (setRd v s).prev = s.prev := rfl
@[simp] theorem setRd_event (v : Nat) (s : State) : (setRd v s).event = s.event := rfl
@[simp] theorem setRd_idle (v : Nat) (s : State) : (setRd v s).idle = s.idle := rfl
@[simp] theorem setRd_wr (v : Nat) (s : State) : (setRd v s).wr = s.wr := rfl
@[simp] theorem setRd_rd (v : Nat) (s : State) : (setRd v s).rd = v := rfl
@[simp] theorem setRd_q (v : Nat) (s : State) : (setRd v s).q = s.q := rfl
@[simp] theorem setRd_txData (v : Nat) (s : State) : (setRd v s).txData = s.txData := rfl
@[simp] theorem setRd_txWr (v : Nat) (s : State) : (setRd v s).txWr = s.txWr := rfl
@[simp] theorem setRd_cfg (v : Nat) (s : State) : (setRd v s).cfg = s.cfg := rfl
@[simp] theorem setRd_wires (v : Nat) (s : State) : (setRd v s).wires = s.wires := rfl
@[simp] theorem setRd_txLog (v : Nat) (s : State) : (setRd v s).txLog = s.txLog := rfl
@[simp] theorem setRd_trace (v : Nat) (s : State) : (setRd v s).trace = s.trace := rfl
@[simp] theorem setRd_tick (v : Nat) (s : State) : (setRd v s).tick = s.tick := rfl

@[simp] theorem setQ_pos (v : Memory) (s : State) : (setQ v s).pos = s.pos := rfl
@[simp] theorem setQ_kt (v : Memory) (s : State) : (setQ v s).kt = s.kt := rfl
@[simp] theorem setQ_snap (v : Memory) (s : State) : (setQ v s).snap = s.snap := rfl
@[simp] theorem setQ_pedalPrev (v : Memory) (s : State) : (setQ v s).pedalPrev = s.pedalPrev := rfl
@[simp] theorem setQ_prev (v : Memory) (s : State) : (setQ v s).prev = s.prev := rfl
@[simp] theorem setQ_event (v : Memory) (s : State) : (setQ v s).event = s.event := rfl
@[simp] theorem setQ_idle (v : Memory) (s : State) : (setQ v s).idle = s.idle := rfl
@[simp] theorem setQ_wr (v : Memory) (s : State) : (setQ v s).wr = s.wr := rfl
@[simp] theorem setQ_rd (v : Memory) (s : State) : (setQ v s).rd = s.rd := rfl
@[simp] theorem setQ_q (v : Memory) (s : State) : (setQ v s).q = v := rfl
@[simp] theorem setQ_txData (v : Memory) (s : State) : (setQ v s).txData = s.txData := rfl
@[simp] theorem setQ_txWr (v : Memory) (s : State) : (setQ v s).txWr = s.txWr := rfl
@[simp] theorem setQ_cfg (v : Memory) (s : State) : (setQ v s).cfg = s.cfg := rfl
@[simp] theorem setQ_wires (v : Memory) (s : State) : (setQ v s).wires = s.wires := rfl
@[simp] theorem setQ_txLog (v : Memory) (s : State) : (setQ v s).txLog = s.txLog := rfl
@[simp] theorem setQ_trace (v : Memory) (s : State) : (setQ v s).trace = s.trace := rfl
@[simp] theorem setQ_tick (v : Memory) (s : State) : (setQ v s).tick = s.tick := rfl

@[simp] theorem setTxData_pos (v : Byte) (s : State) : (setTxData v s).pos = s.pos := rfl
@[simp] theorem setTxData_kt (v : Byte) (s : State) : (setTxData v s).kt = s.kt := rfl
@[simp] theorem setTxData_snap (v : Byte) (s : State) : (setTxData v s).snap = s.snap := rfl
@[simp] theorem setTxData_pedalPrev (v : Byte) (s : State) : (setTxData v s).pedalPrev = s.pedalPrev := rfl
@[simp] theorem setTxData_prev (v : Byte) (s : State) : (setTxData v s).prev = s.prev := rfl
@[simp] theorem setTxData_event (v : Byte) (s : State) : (setTxData v s).event = s.event := rfl
@[simp] theorem setTxData_idle (v : Byte) (s : State) : (setTxData v s).idle = s.idle := rfl
@[simp] theorem setTxData_wr (v : Byte) (s : State) : (setTxData v s).wr = s.wr := rfl
@[simp] theorem setTxData_rd (v : Byte) (s : State) : (setTxData v s).rd = s.rd := rfl
@[simp] theorem setTxData_q (v : Byte) (s : State) : (setTxData v s).q = s.q := rfl
@[simp] theorem setTxData_txData (v : Byte) (s : State) : (setTxData v s).txData = v := rfl
@[simp] theorem setTxData_txWr (v : Byte) (s : State) : (setTxData v s).txWr = s.txWr := rfl
@[simp] theorem setTxData_cfg (v : Byte) (s : State) : (setTxData v s).cfg = s.cfg := rfl
@[simp] theorem setTxData_wires (v : Byte) (s : State) : (setTxData v s).wires = s.wires := rfl
@[simp] theorem setTxData_txLog (v : Byte) (s : State) : (setTxData v s).txLog = s.txLog := rfl
@[simp] theorem setTxData_trace (v : Byte) (s : State) : (setTxData v s).trace = s.trace := rfl
@[simp] theorem setTxData_tick (v : Byte) (s : State) : (setTxData v s).tick = s.tick := rfl

@[simp] theorem setTxWr_pos (v : Bool) (s : State) : (setTxWr v s).pos = s.pos := rfl
@[simp] theorem setTxWr_kt (v : Bool) (s : State) : (setTxWr v s).kt = s.kt := rfl
@[simp] theorem setTxWr_snap (v : Bool) (s : State) : (setTxWr v s).snap = s.snap := rfl
@[simp] theorem setTxWr_pedalPrev (v : Bool) (s : State) : (setTxWr v s).pedalPrev = s.pedalPrev := rfl
@[simp] theorem setTxWr_prev (v : Bool) (s : State) : (setTxWr v s).prev = s.prev := rfl
@[simp] theorem setTxWr_event (v : Bool) (s : State) : (setTxWr v s).event = s.event := rfl
@[simp] theorem setTxWr_idle (v : Bool) (s : State) : (setTxWr v s).idle = s.idle := rfl
@[simp] theorem setTxWr_wr (v : Bool) (s : State) : (setTxWr v s).wr = s.wr := rfl
@[simp] theorem setTxWr_rd (v : Bool) (s : State) : (setTxWr v s).rd = s.rd := rfl
@[simp] theorem setTxWr_q (v : Bool) (s : State) : (setTxWr v s).q = s.q := rfl
@[simp] theorem setTxWr_txData (v : Bool) (s : State) : (setTxWr v s).txData = s.txData := rfl
@[simp] theorem setTxWr_txWr (v : Bool) (s : State) : (setTxWr v s).txWr = v := rfl
@[simp] theorem setTxWr_cfg (v : Bool) (s : State) : (setTxWr v s).cfg = s.cfg := rfl
@[simp] theorem setTxWr_wires (v : Bool) (s : State) : (setTxWr v s).wires = s.wires := rfl
@[simp] theorem setTxWr_txLog (v : Bool) (s : State) : (setTxWr v s).txLog = s.txLog := rfl
@[simp] theorem setTxWr_trace (v : Bool) (s : State) : (setTxWr v s).trace = s.trace := rfl
@[simp] theorem setTxWr_tick (v : Bool) (s : State) : (setTxWr v s).tick = s.tick := rfl

@[simp] theorem setWires_pos (v : Wires) (s : State) : (setWires v s).pos = s.pos := rfl
@[simp] theorem setWires_kt (v : Wires) (s : State) : (setWires v s).kt = s.kt := rfl
@[simp] theorem setWires_snap (v : Wires) (s : State) : (setWires v s).snap = s.snap := rfl
@[simp] theorem setWires_pedalPrev (v : Wires) (s : State) : (setWires v s).pedalPrev = s.pedalPrev := rfl
@[simp] theorem setWires_prev (v : Wires) (s : State) : (setWires v s).prev = s.prev := rfl
@[simp] theorem setWires_event (v : Wires) (s : State) : (setWires v s).event = s.event := rfl
@[simp] theorem setWires_idle (v : Wires) (s : State) : (setWires v s).idle = s.idle := rfl
@[simp] theorem setWires_wr (v : Wires) (s : State) : (setWires v s).wr = s.wr := rfl
@[simp] theorem setWires_rd (v : Wires) (s : State) : (setWires v s).rd = s.rd := rfl
@[simp] theorem setWires_q (v : Wires) (s : State) : (setWires v s).q = s.q := rfl
@[simp] theorem setWires_txData (v : Wires) (s : State) : (setWires v s).txData = s.txData := rfl
@[simp] theorem setWires_txWr (v : Wires) (s : State) : (setWires v s).txWr = s.txWr := rfl
@[simp] theorem setWires_cfg (v : Wires) (s : State) : (setWires v s).cfg = s.cfg := rfl
@[simp] theorem setWires_wires (v : Wires) (s : State) : (setWires v s).wires = v := rfl
@[simp] theorem setWires_txLog (v : Wires) (s : State) : (setWires v s).txLog = s.txLog := rfl
@[simp] theorem setWires_trace (v : Wires) (s : State) : (setWires v s).trace = s.trace := rfl
@[simp] theorem setWires_tick (v : Wires) (s : State) : (setWires v s).tick = s.tick := rfl

@[simp] theorem setTxLog_pos (v : List Byte) (s : State) : (setTxLog v s).pos = s.pos := rfl
@[simp] theorem setTxLog_kt (v : List Byte) (s : State) : (setTxLog v s).kt = s.kt := rfl
@[simp] theorem setTxLog_snap (v : List Byte) (s : State) : (setTxLog v s).snap = s.snap := rfl
@[simp] theorem setTxLog_pedalPrev (v : List Byte) (s : State) : (setTxLog v s).pedalPrev = s.pedalPrev := rfl
@[simp] theorem setTxLog_prev (v : List Byte) (s : State) : (setTxLog v s).prev = s.prev := rfl
@[simp] theorem setTxLog_event (v : List Byte) (s : State) : (setTxLog v s).event = s.event := rfl
@[simp] theorem setTxLog_idle (v : List Byte) (s : State) : (setTxLog v s).idle = s.idle := rfl
@[simp] theorem setTxLog_wr (v : List Byte) (s : State) : (setTxLog v s).wr = s.wr := rfl
@[simp] theorem setTxLog_rd (v : List Byte) (s : State) : (setTxLog v s).rd = s.rd := rfl
@[simp] theorem setTxLog_q (v : List Byte) (s : State) : (setTxLog v s).q = s.q := rfl
@[simp] theorem setTxLog_txData (v : List Byte) (s : State) : (setTxLog v s).txData = s.txData := rfl
@[simp] theorem setTxLog_txWr (v : List Byte) (s : State) : (setTxLog v s).txWr = s.txWr := rfl
@[simp] theorem setTxLog_cfg (v : List Byte) (s : State) : (setTxLog v s).cfg = s.cfg := rfl
@[simp] theorem setTxLog_wires (v : List Byte) (s : State) : (setTxLog v s).wires = s.wires := rfl
@[simp] theorem setTxLog_txLog (v : List Byte) (s : State) : (setTxLog v s).txLog = v := rfl
@[simp] theorem setTxLog_trace (v : List Byte) (s : State) : (setTxLog v s).trace = s.trace := rfl
@[simp] theorem setTxLog_tick (v : List Byte) (s : State) : (setTxLog v s).tick = s.tick := rfl

@[simp] theorem setTrace_pos (v : List Stimulus) (s : State) : (setTrace v s).pos = s.pos := rfl
@[simp] theorem setTrace_kt (v : List Stimulus) (s : State) : (setTrace v s).kt = s.kt := rfl
@[simp] theorem setTrace_snap (v : List Stimulus) (s : State) : (setTrace v s).snap = s.snap := rfl
@[simp] theorem setTrace_pedalPrev (v : List Stimulus) (s : State) : (setTrace v s).pedalPrev = s.pedalPrev := rfl
@[simp] theorem setTrace_prev (v : List Stimulus) (s : State) : (setTrace v s).prev = s.prev := rfl
@[simp] theorem setTrace_event (v : List Stimulus) (s : State) : (setTrace v s).event = s.event := rfl
@[simp] theorem setTrace_idle (v : List Stimulus) (s : State) : (setTrace v s).idle = s.idle := rfl
@[simp] theorem setTrace_wr (v : List Stimulus) (s : State) : (setTrace v s).wr = s.wr := rfl
@[simp] theorem setTrace_rd (v : List Stimulus) (s : State) : (setTrace v s).rd = s.rd := rfl
@[simp] theorem setTrace_q (v : List Stimulus) (s : State) : (setTrace v s).q = s.q := rfl
@[simp] theorem setTrace_txData (v : List Stimulus) (s : State) : (setTrace v s).txData = s.txData := rfl
@[simp] theorem setTrace_txWr (v : List Stimulus) (s : State) : (setTrace v s).txWr = s.txWr := rfl
@[simp] theorem setTrace_cfg (v : List Stimulus) (s : State) : (setTrace v s).cfg = s.cfg := rfl
@[simp] theorem setTrace_wires (v : List Stimulus) (s : State) : (setTrace v s).wires = s.wires := rfl
@[simp] theorem setTrace_txLog (v : List Stimulus) (s : State) : (setTrace v s).txLog = s.txLog := rfl
@[simp] theorem setTrace_trace (v : List Stimulus) (s : State) : (setTrace v s).trace = v := rfl
@[simp] theorem setTrace_tick (v : List Stimulus) (s : State) : (setTrace v s).tick = s.tick := rfl

@[simp] theorem setTick_pos (v : Nat) (s : State) : (setTick v s).pos = s.pos := rfl
@[simp] theorem setTick_kt (v : Nat) (s : State) : (setTick v s).kt = s.kt := rfl
@[simp] theorem setTick_snap (v : Nat) (s : State) : (setTick v s).snap = s.snap := rfl
@[simp] theorem setTick_pedalPrev (v : Nat) (s : State) : (setTick v s).pedalPrev = s.pedalPrev := rfl
@[simp] theorem setTick_prev (v : Nat) (s : State) : (setTick v s).prev = s.prev := rfl
@[simp] theorem setTick_event (v : Nat) (s : State) : (setTick v s).event = s.event := rfl
@[simp] theorem setTick_idle (v : Nat) (s : State) : (setTick v s).idle = s.idle := rfl
@[simp] theorem setTick_wr (v : Nat) (s : State) : (setTick v s).wr = s.wr := rfl
@[simp] theorem setTick_rd (v : Nat) (s : State) : (setTick v s).rd = s.rd := rfl
@[simp] theorem setTick_q (v : Nat) (s : State) : (setTick v s).q = s.q := rfl
@[simp] theorem setTick_txData (v : Nat) (s : State) : (setTick v s).txData = s.txData := rfl
@[simp] theorem setTick_txWr (v : Nat) (s : State) : (setTick v s).txWr = s.txWr := rfl
@[simp] theorem setTick_cfg (v : Nat) (s : State) : (setTick v s).cfg = s.cfg := rfl
@[simp] theorem setTick_wires (v : Nat) (s : State) : (setTick v s).wires = s.wires := rfl
@[simp] theorem setTick_txLog (v : Nat) (s : State) : (setTick v s).txLog = s.txLog := rfl
@[simp] theorem setTick_trace (v : Nat) (s : State) : (setTick v s).trace = s.trace := rfl
@[simp] theorem setTick_tick (v : Nat) (s : State) : (setTick v s).tick = v := rfl
@[simp] theorem raise_pos (g : Signal) (s : State) : (raise g s).pos = s.pos := rfl
@[simp] theorem raise_kt (g : Signal) (s : State) : (raise g s).kt = s.kt := rfl
@[simp] theorem raise_snap (g : Signal) (s : State) : (raise g s).snap = s.snap := rfl
@[simp] theorem raise_pedalPrev (g : Signal) (s : State) : (raise g s).pedalPrev = s.pedalPrev := rfl
@[simp] theorem raise_prev (g : Signal) (s : State) : (raise g s).prev = s.prev := rfl
@[simp] theorem raise_event (g : Signal) (s : State) : (raise g s).event = s.event := rfl
@[simp] theorem raise_idle (g : Signal) (s : State) : (raise g s).idle = s.idle := rfl
@[simp] theorem raise_wr (g : Signal) (s : State) : (raise g s).wr = s.wr := rfl
@[simp] theorem raise_rd (g : Signal) (s : State) : (raise g s).rd = s.rd := rfl
@[simp] theorem raise_q (g : Signal) (s : State) : (raise g s).q = s.q := rfl
@[simp] theorem raise_txData (g : Signal) (s : State) : (raise g s).txData = s.txData := rfl
@[simp] theorem raise_txWr (g : Signal) (s : State) : (raise g s).txWr = s.txWr := rfl
@[simp] theorem raise_cfg (g : Signal) (s : State) : (raise g s).cfg = s.cfg := rfl
@[simp] theorem raise_txLog (g : Signal) (s : State) : (raise g s).txLog = s.txLog := rfl
@[simp] theorem raise_trace (g : Signal) (s : State) : (raise g s).trace = s.trace := rfl
@[simp] theorem raise_tick (g : Signal) (s : State) : (raise g s).tick = s.tick := rfl

@[simp] theorem setResult_pos (r : Result) (s : State) : (setResult r s).pos = s.pos := rfl
@[simp] theorem setResult_kt (r : Result) (s : State) : (setResult r s).kt = s.kt := rfl
@[simp] theorem setResult_snap (r : Result) (s : State) : (setResult r s).snap = s.snap := rfl
@[simp] theorem setResult_pedalPrev (r : Result) (s : State) : (setResult r s).pedalPrev = s.pedalPrev := rfl
@[simp] theorem setResult_prev (r : Result) (s : State) : (setResult r s).prev = s.prev := rfl
@[simp] theorem setResult_event (r : Result) (s : State) : (setResult r s).event = s.event := rfl
@[simp] theorem setResult_idle (r : Result) (s : State) : (setResult r s).idle = s.idle := rfl
@[simp] theorem setResult_wr (r : Result) (s : State) : (setResult r s).wr = s.wr := rfl
@[simp] theorem setResult_rd (r : Result) (s : State) : (setResult r s).rd = s.rd := rfl
@[simp] theorem setResult_q (r : Result) (s : State) : (setResult r s).q = s.q := rfl
@[simp] theorem setResult_txData (r : Result) (s : State) : (setResult r s).txData = s.txData := rfl
@[simp] theorem setResult_txWr (r : Result) (s : State) : (setResult r s).txWr = s.txWr := rfl
@[simp] theorem setResult_cfg (r : Result) (s : State) : (setResult r s).cfg = s.cfg := rfl
@[simp] theorem setResult_txLog (r : Result) (s : State) : (setResult r s).txLog = s.txLog := rfl
@[simp] theorem setResult_trace (r : Result) (s : State) : (setResult r s).trace = s.trace := rfl
@[simp] theorem setResult_tick (r : Result) (s : State) : (setResult r s).tick = s.tick := rfl

@[simp] theorem raise_wires (g : Signal) (s : State) :
    (raise g s).wires = { s.wires with signals := s.wires.signals ++ [g] } := rfl
@[simp] theorem setResult_wires (r : Result) (s : State) :
    (setResult r s).wires = { s.wires with result := r } := rfl

@[simp] theorem portWrite_pos (v : Byte) (s : State) : (portWrite v s).pos = s.pos := rfl
@[simp] theorem portWrite_kt (v : Byte) (s : State) : (portWrite v s).kt = s.kt := rfl
@[simp] theorem portWrite_snap (v : Byte) (s : State) : (portWrite v s).snap = s.snap := rfl
@[simp] theorem portWrite_pedalPrev (v : Byte) (s : State) : (portWrite v s).pedalPrev = s.pedalPrev := rfl
@[simp] theorem portWrite_prev (v : Byte) (s : State) : (portWrite v s).prev = s.prev := rfl
@[simp] theorem portWrite_event (v : Byte) (s : State) : (portWrite v s).event = s.event := rfl
@[simp] theorem portWrite_idle (v : Byte) (s : State) : (portWrite v s).idle = s.idle := rfl
@[simp] theorem portWrite_wr (v : Byte) (s : State) : (portWrite v s).wr = s.wr := rfl
@[simp] theorem portWrite_rd (v : Byte) (s : State) : (portWrite v s).rd = s.rd := rfl
@[simp] theorem portWrite_q (v : Byte) (s : State) : (portWrite v s).q = s.q := rfl
@[simp] theorem portWrite_txData (v : Byte) (s : State) : (portWrite v s).txData = v := rfl
@[simp] theorem portWrite_txWr (v : Byte) (s : State) : (portWrite v s).txWr = true := rfl
@[simp] theorem portWrite_cfg (v : Byte) (s : State) : (portWrite v s).cfg = s.cfg := rfl
@[simp] theorem portWrite_wires (v : Byte) (s : State) : (portWrite v s).wires = s.wires := rfl
@[simp] theorem portWrite_txLog (v : Byte) (s : State) : (portWrite v s).txLog = s.txLog ++ [v] := rfl
@[simp] theorem portWrite_trace (v : Byte) (s : State) : (portWrite v s).trace = s.trace := rfl
@[simp] theorem portWrite_tick (v : Byte) (s : State) : (portWrite v s).tick = s.tick := rfl

@[simp] theorem portQuiet_pos (s : State) : (portQuiet s).pos = s.pos := rfl
@[simp] theorem portQuiet_kt (s : State) : (portQuiet s).kt = s.kt := rfl
@[simp] theorem portQuiet_snap (s : State) : (portQuiet s).snap = s.snap := rfl
@[simp] theorem portQuiet_pedalPrev (s : State) : (portQuiet s).pedalPrev = s.pedalPrev := rfl
@[simp] theorem portQuiet_prev (s : State) : (portQuiet s).prev = s.prev := rfl
@[simp] theorem portQuiet_event (s : State) : (portQuiet s).event = s.event := rfl
@[simp] theorem portQuiet_idle (s : State) : (portQuiet s).idle = s.idle := rfl
@[simp] theorem portQuiet_wr (s : State) : (portQuiet s).wr = s.wr := rfl
@[simp] theorem portQuiet_rd (s : State) : (portQuiet s).rd = s.rd := rfl
@[simp] theorem portQuiet_q (s : State) : (portQuiet s).q = s.q := rfl
@[simp] theorem portQuiet_txWr (s : State) : (portQuiet s).txWr = false := rfl
@[simp] theorem portQuiet_cfg (s : State) : (portQuiet s).cfg = s.cfg := rfl
@[simp] theorem portQuiet_wires (s : State) : (portQuiet s).wires = s.wires := rfl
@[simp] theorem portQuiet_txLog (s : State) : (portQuiet s).txLog = s.txLog := rfl
@[simp] theorem portQuiet_trace (s : State) : (portQuiet s).trace = s.trace := rfl
@[simp] theorem portQuiet_tick (s : State) : (portQuiet s).tick = s.tick := rfl

end Sys2Proof.Machine
end

