-- ==== Sys2Proof/Laws/Memory.lean ====
section
/-! SUPPORT. The queue buffer: what a read gives after a write, and that every operation keeps the canonical form. -/

namespace Sys2Proof.Machine

theorem Memory.read_nil (a : Nat) : Memory.read [] a = none := rfl

theorem Memory.read_cons (c : Host.Cell) (m : Memory) (a : Nat) :
    Memory.read (c :: m) a = if a = c.1 then some c.2 else Memory.read m a := rfl

/-- A read after a write: the byte written at that slot, and every other slot as before. -/
theorem Memory.read_write (m : Memory) (a : Nat) (v : Byte) (b : Nat) :
    Memory.read (Memory.write m a v) b = if b = a then some v else Memory.read m b := by
  induction m with
  | nil => simp [Memory.write, Memory.read]
  | cons c m ih =>
    unfold Memory.write
    split
    · simp [Memory.read]
    · split
      · rename_i _ h
        subst h
        simp only [Memory.read]
        split <;> rfl
      · rename_i _ h
        simp only [Memory.read_cons, ih]
        by_cases hb : b = c.1
        · have hne : b ≠ a := fun e => h (by rw [← e, hb])
          rw [if_pos hb, if_neg hne, if_pos hb]
        · simp [hb]

/-- The addresses after a write are the old ones and the one written. -/
theorem Memory.mem_write (m : Memory) (a : Nat) (v : Byte) (c : Host.Cell) (h : c ∈ Memory.write m a v) :
    c = (a, v) ∨ c ∈ m := by
  induction m with
  | nil => simpa [Memory.write] using h
  | cons d m ih =>
    unfold Memory.write at h
    split at h
    · simpa using h
    · split at h
      · rcases List.mem_cons.1 h with e | e
        · exact .inl e
        · exact .inr (List.mem_cons_of_mem _ e)
      · rcases List.mem_cons.1 h with e | e
        · exact .inr (e ▸ List.mem_cons_self)
        · exact (ih e).imp_right (List.mem_cons_of_mem _)

/-- A write keeps the canonical form. -/
theorem Memory.write_wf (m : Memory) (a : Nat) (v : Byte) (h : Memory.wf m) : Memory.wf (Memory.write m a v) := by
  induction m with
  | nil => simp [Memory.write]
  | cons c m ih =>
    obtain ⟨hc, hm⟩ := List.pairwise_cons.1 h
    unfold Memory.write
    split
    · rename_i hlt
      refine List.pairwise_cons.2 ⟨fun d hd => ?_, h⟩
      rcases List.mem_cons.1 hd with e | e
      · exact e ▸ hlt
      · exact hlt.trans (hc d e)
    · split
      · rename_i _ e
        exact List.pairwise_cons.2 ⟨fun d hd => e ▸ hc d hd, hm⟩
      · rename_i hlt hne
        refine List.pairwise_cons.2 ⟨fun d hd => ?_, ih hm⟩
        rcases Memory.mem_write m a v d hd with e | e
        · subst e
          show c.1 < a
          omega
        · exact hc d e

/-- Reset's memory lists nothing. -/
theorem reset_memory_wf : Memory.wf State.reset.q := by decide

/-- MemWrite keeps the canonical form. -/
theorem memWrite_wf (a : Nat) (v : Byte) (s : State) (h : Memory.wf s.q) : Memory.wf (memWrite a v s).q := by
  simpa [memWrite] using Memory.write_wf s.q a v h

/-- RESET's memory lists nothing. -/
theorem resetBlock_wf (s : State) : Memory.wf (resetBlock s).q := by
  simp [resetBlock]

/-- A byte read after MemWrite. -/
theorem memRead_memWrite (a b : Nat) (v : Byte) (s : State) :
    memRead (memWrite a v s) b = if b = a then v else memRead s b := by
  unfold memRead memWrite
  simp only [setQ_q, Memory.read_write]
  split <;> simp

/-- A key table byte after a write to the key table. -/
theorem ktByte_setKtByte (b c : Nat) (v : Byte) (s : State) (h : b < 9) :
    ktByte (setKtByte b v s) c = if c = b then v else ktByte s c := by
  unfold ktByte setKtByte
  simp only [setKt_kt, Vector.getElem?_setIfInBounds]
  by_cases e : b = c
  · simp [e.symm, h]
  · simp [e, Ne.symm e]

end Sys2Proof.Machine
end

