-- ==== Sys2Proof/Laws/Admission.lean ====
section
/-! SUPPORT. What `proceed` does: it lets an operation through exactly in the admitted states. -/

namespace Sys2Proof.Machine

theorem configRefusal_eq_none (c : Config) : configRefusal c = none ↔ c.capOk ∧ c.transposeOk := by
  unfold configRefusal
  split
  · rename_i h
    simp only [reduceCtorEq, false_iff]
    exact fun a => h a.1
  · split
    · rename_i h
      simp only [reduceCtorEq, false_iff]
      exact fun a => h a.2
    · rename_i h1 h2
      exact iff_of_true rfl ⟨not_not.1 h1, not_not.1 h2⟩

theorem stateRefusal_eq_none (s : State) : stateRefusal s = none ↔ Admitted s := by
  unfold stateRefusal
  cases h : configRefusal s.cfg with
  | some r =>
    simp only [reduceCtorEq, false_iff]
    intro a
    simp [(configRefusal_eq_none s.cfg).2 ⟨a.cap, a.transpose⟩] at h
  | none =>
    obtain ⟨hc, ht⟩ := (configRefusal_eq_none s.cfg).1 h
    simp only
    split
    · rename_i hp
      simp only [reduceCtorEq, false_iff]
      exact fun a => absurd a.pos (by omega)
    · rename_i hp
      split
      · rename_i hw
        simp only [reduceCtorEq, false_iff]
        exact fun a => hw ⟨a.wr, a.rd⟩
      · rename_i hw
        simp only [true_iff]
        have hw := not_not.1 hw
        exact ⟨hc, ht, by omega, hw.1, hw.2⟩

theorem proceed_of_admitted {s : State} (h : Admitted s) (t : State) : proceed s t = .next t := by
  unfold proceed
  rw [(stateRefusal_eq_none s).2 h]

theorem proceed_of_not_admitted {s : State} (h : ¬ Admitted s) (t : State) : ∃ r, proceed s t = .refused r := by
  unfold proceed
  cases e : stateRefusal s with
  | some r => exact ⟨r, rfl⟩
  | none => exact absurd ((stateRefusal_eq_none s).1 e) h

/-- Everything `proceed` can do when it answers a next state. -/
theorem proceed_eq_next {s t u : State} (h : proceed s t = .next u) : Admitted s ∧ u = t := by
  unfold proceed at h
  cases e : stateRefusal s with
  | some r => simp [e] at h
  | none =>
    rw [e] at h
    exact ⟨(stateRefusal_eq_none s).1 e, (Host.Outcome.next.inj h).symm⟩

/-- Admission depends on the configuration, POS and the cursors alone. -/
theorem Admitted.of_eq {s t : State} (h : Admitted s) (hc : t.cfg = s.cfg) (hp : t.pos.toNat ≤ 64)
    (hw : t.wr < s.cfg.cap) (hr : t.rd < s.cfg.cap) : Admitted t :=
  ⟨hc ▸ h.cap, hc ▸ h.transpose, hp, hc ▸ hw, hc ▸ hr⟩

theorem Admitted.cap_pos {s : State} (h : Admitted s) : 0 < s.cfg.cap := by
  have := h.cap.1
  omega

end Sys2Proof.Machine
end

