-- ==== Sys2Proof/Laws/Queue.lean ====
section
/-! SUPPORT. What the queue operations do, in terms of the queued bytes. -/

namespace Sys2Proof.Machine

/-- COUNT is the number of slots from RD to WR. -/
theorem queueCount_spec (s : State) (h : Admitted s) :
    queueCount s < s.cfg.cap ∧ (s.rd + queueCount s) % s.cfg.cap = s.wr := by
  have hc := h.cap_pos
  have hw := h.wr
  have hr := h.rd
  refine ⟨Nat.mod_lt _ hc, ?_⟩
  unfold queueCount
  rw [Nat.add_mod_mod, show s.rd + (s.wr + s.cfg.cap - s.rd) = s.wr + s.cfg.cap by omega, Nat.add_mod_right,
    Nat.mod_eq_of_lt hw]

/-- COUNT is the one number below CAP that leads from RD to WR. -/
theorem queueCount_unique (s : State) (h : Admitted s) (k : Nat) (hk : k < s.cfg.cap)
    (e : (s.rd + k) % s.cfg.cap = s.wr) : queueCount s = k := by
  obtain ⟨h1, h2⟩ := queueCount_spec s h
  have : s.rd + k ≡ s.rd + queueCount s [MOD s.cfg.cap] := by
    unfold Nat.ModEq
    rw [e, h2]
  have := Nat.ModEq.add_left_cancel' _ this
  unfold Nat.ModEq at this
  rw [Nat.mod_eq_of_lt hk, Nat.mod_eq_of_lt h1] at this
  exact this.symm

theorem queueEmpty_iff (s : State) (h : Admitted s) : queueEmpty s = true ↔ queueCount s = 0 := by
  unfold queueEmpty
  rw [beq_iff_eq]
  constructor
  · intro e
    exact queueCount_unique s h 0 h.cap_pos (by rw [Nat.add_zero, Nat.mod_eq_of_lt h.rd, e])
  · intro e
    have := (queueCount_spec s h).2
    rwa [e, Nat.add_zero, Nat.mod_eq_of_lt h.rd] at this

theorem queueFull_iff (s : State) (h : Admitted s) : queueFull s = true ↔ queueCount s = s.cfg.cap - 1 := by
  have hc := h.cap_pos
  obtain ⟨h1, h2⟩ := queueCount_spec s h
  unfold queueFull nextCursor
  rw [beq_iff_eq, ← h2, Nat.mod_add_mod]
  constructor
  · intro e
    by_contra hne
    have e2 : s.rd + (queueCount s + 1) ≡ s.rd + 0 [MOD s.cfg.cap] := by
      unfold Nat.ModEq
      rw [← Nat.add_assoc, e, Nat.add_zero, Nat.mod_eq_of_lt h.rd]
    have e3 := Nat.ModEq.add_left_cancel' _ e2
    unfold Nat.ModEq at e3
    rw [Nat.mod_eq_of_lt (by omega), Nat.zero_mod] at e3
    omega
  · intro e
    rw [e, show s.rd + (s.cfg.cap - 1) + 1 = s.rd + s.cfg.cap by omega, Nat.add_mod_right,
      Nat.mod_eq_of_lt h.rd]

theorem liveBytes_length (s : State) : (liveBytes s).length = queueCount s := by
  simp [liveBytes]

/-- The queued bytes depend on the cursors, CAP and Q alone. -/
theorem liveBytes_congr {s t : State} (hw : t.wr = s.wr) (hr : t.rd = s.rd) (hq : t.q = s.q)
    (hc : t.cfg.cap = s.cfg.cap) : liveBytes t = liveBytes s := by
  simp [liveBytes, queueCount, memRead, hw, hr, hq, hc]

/-- Two live offsets below CAP name different slots. -/
theorem slot_ne {cap rd k n : Nat} (hk : k < n) (hn : n < cap) : (rd + k) % cap ≠ (rd + n) % cap := by
  intro e
  have e3 := Nat.ModEq.add_left_cancel' rd (show rd + k ≡ rd + n [MOD cap] from e)
  unfold Nat.ModEq at e3
  rw [Nat.mod_eq_of_lt (by omega), Nat.mod_eq_of_lt hn] at e3
  omega

/-- Everything ENQUEUE does when the queue is not full. -/
theorem enqueue_of_room (v : Byte) (s : State) (h : Admitted s) (hf : 0 < queueFree s) :
    enqueue v s = setWr (nextCursor s s.wr) (memWrite s.wr v s) ∧
    queueCount (enqueue v s) = queueCount s + 1 ∧ queueFree (enqueue v s) = queueFree s - 1 ∧
    liveBytes (enqueue v s) = liveBytes s ++ [v] ∧ Admitted (enqueue v s) := by
  obtain ⟨h1, h2⟩ := queueCount_spec s h
  have hc := h.cap_pos
  have hroom : queueCount s + 1 < s.cfg.cap := by
    unfold queueFree at hf
    omega
  have hne : queueFull s = false := by
    rw [Bool.eq_false_iff]
    intro e
    have := (queueFull_iff s h).1 e
    omega
  have e : enqueue v s = setWr (nextCursor s s.wr) (memWrite s.wr v s) := by
    simp [enqueue, hne]
  have ha : Admitted (enqueue v s) := by
    rw [e]
    exact h.of_eq rfl h.pos (Nat.mod_lt _ hc) h.rd
  have hcount : queueCount (enqueue v s) = queueCount s + 1 := by
    refine queueCount_unique _ ha _ (by rw [e]; exact hroom) ?_
    rw [e]
    show (s.rd + (queueCount s + 1)) % s.cfg.cap = (s.wr + 1) % s.cfg.cap
    rw [← Nat.add_assoc, Nat.add_mod, h2, Nat.add_mod s.wr 1, Nat.mod_eq_of_lt h.wr]
  refine ⟨e, hcount, ?_, ?_, ha⟩
  · unfold queueFree
    rw [hcount, e]
    show s.cfg.cap - 1 - (queueCount s + 1) = s.cfg.cap - 1 - queueCount s - 1
    omega
  · unfold liveBytes
    rw [hcount, List.range_succ, List.map_append, List.map_singleton, e]
    show List.map (fun k => memRead (memWrite s.wr v s) ((s.rd + k) % s.cfg.cap)) _ ++
      [memRead (memWrite s.wr v s) ((s.rd + queueCount s) % s.cfg.cap)] = _
    rw [memRead_memWrite, h2, if_pos rfl]
    congr 1
    refine List.map_congr_left fun k hk => ?_
    rw [memRead_memWrite, if_neg]
    rw [← h2]
    exact slot_ne (List.mem_range.1 hk) h1

theorem enqueue_of_full (v : Byte) (s : State) (h : Admitted s) (hf : queueFree s = 0) : enqueue v s = s := by
  obtain ⟨h1, -⟩ := queueCount_spec s h
  have : queueFull s = true := (queueFull_iff s h).2 (by unfold queueFree at hf; omega)
  simp [enqueue, this]

/-- ENQUEUE touches WR and Q alone, and no slot but the one at WR. -/
theorem enqueue_frame (v : Byte) (s : State) :
    enqueue v s = { s with wr := (enqueue v s).wr, q := (enqueue v s).q } ∧
    (∀ a, a ≠ s.wr → memRead (enqueue v s) a = memRead s a) := by
  unfold enqueue
  split
  · exact ⟨rfl, fun _ _ => rfl⟩
  · refine ⟨rfl, fun a ha => ?_⟩
    show memRead (memWrite s.wr v s) a = _
    rw [memRead_memWrite, if_neg ha]

/-- Everything DEQUEUE does when the queue is not empty. -/
theorem dequeue_of_nonempty (s : State) (h : Admitted s) (hne : s.rd ≠ s.wr) :
    dequeue s = setRd (nextCursor s s.rd) s ∧ liveBytes s = memRead s s.rd :: liveBytes (dequeue s) ∧
    Admitted (dequeue s) := by
  obtain ⟨h1, h2⟩ := queueCount_spec s h
  have hc := h.cap_pos
  have e : dequeue s = setRd (nextCursor s s.rd) s := by
    simp [dequeue, queueEmpty, hne]
  have ha : Admitted (dequeue s) := by
    rw [e]
    exact h.of_eq rfl h.pos h.wr (Nat.mod_lt _ hc)
  have hpos : queueCount s ≠ 0 := by
    intro e0
    rw [e0, Nat.add_zero, Nat.mod_eq_of_lt h.rd] at h2
    exact hne h2
  obtain ⟨k, hk⟩ := Nat.exists_eq_succ_of_ne_zero hpos
  have hcount : queueCount (dequeue s) = k := by
    refine queueCount_unique _ ha _ (by rw [e]; show k < s.cfg.cap; omega) ?_
    rw [e]
    show ((s.rd + 1) % s.cfg.cap + k) % s.cfg.cap = s.wr
    rw [Nat.mod_add_mod, ← h2, hk]
    congr 1
    omega
  refine ⟨e, ?_, ha⟩
  unfold liveBytes
  rw [hcount, hk, List.range_succ_eq_map, List.map_cons, Nat.add_zero, Nat.mod_eq_of_lt h.rd, e]
  congr 1
  rw [List.map_map]
  refine List.map_congr_left fun j _ => ?_
  show memRead s ((s.rd + (j + 1)) % s.cfg.cap) = memRead s (((s.rd + 1) % s.cfg.cap + j) % s.cfg.cap)
  rw [Nat.mod_add_mod]
  congr 2
  omega

end Sys2Proof.Machine
end

