-- ==== Sys2Proof/Laws/Encoder.lean ====
section
/-! SUPPORT. What offering a message to the queue does. -/

namespace Sys2Proof.Machine

/-- Two states that agree on everything a queue operation reads. -/
theorem enqueue_congr_count {s t : State} (hw : t.wr = s.wr) (hr : t.rd = s.rd) (hc : t.cfg.cap = s.cfg.cap) :
    queueCount t = queueCount s ∧ queueFree t = queueFree s := by
  simp [queueFree, queueCount, hw, hr, hc]

/-- `n` bytes fit one after the other; those beyond the room are dropped. -/
theorem enqueue_take (v : Byte) (s : State) (h : Admitted s) :
    liveBytes (enqueue v s) = liveBytes s ++ [v].take (queueFree s) ∧
    queueFree (enqueue v s) = queueFree s - 1 ∧ (enqueue v s).wr = (s.wr + min 1 (queueFree s)) % s.cfg.cap ∧
    Admitted (enqueue v s) := by
  rcases Nat.eq_zero_or_pos (queueFree s) with e | e
  · rw [enqueue_of_full v s h e, e]
    simp [Nat.mod_eq_of_lt h.wr, h]
  · obtain ⟨h1, _, h3, h4, h5⟩ := enqueue_of_room v s h e
    refine ⟨?_, h3, ?_, h5⟩
    · rw [h4]
      refine congrArg (liveBytes s ++ ·) ?_
      cases hq : queueFree s with
      | zero => omega
      | succ n => simp
    · rw [h1, Nat.min_eq_left e]
      rfl

/-- The three ENQUEUE calls of a message. -/
theorem enqueueBytes_spec (m : Message) (s : State) (h : Admitted s) :
    liveBytes (enqueueBytes m s) = liveBytes s ++ m.bytes.take (queueFree s) ∧
    (enqueueBytes m s).wr = (s.wr + min 3 (queueFree s)) % s.cfg.cap ∧ Admitted (enqueueBytes m s) := by
  obtain ⟨a1, a2, a3, a4⟩ := enqueue_take m.status s h
  obtain ⟨b1, b2, b3, b4⟩ := enqueue_take m.data1 _ a4
  obtain ⟨c1, -, c3, c4⟩ := enqueue_take m.data2 _ b4
  have hc1 : (enqueue m.status s).cfg = s.cfg := by rw [(enqueue_frame m.status s).1]
  have hc2 : (enqueue m.data1 (enqueue m.status s)).cfg = s.cfg := by rw [(enqueue_frame m.data1 _).1, hc1]
  refine ⟨?_, ?_, c4⟩
  · unfold enqueueBytes Message.bytes
    rw [c1, b1, a1, b2, a2, List.append_assoc, List.append_assoc]
    refine congrArg (liveBytes s ++ ·) ?_
    rcases Nat.lt_or_ge (queueFree s) 3 with hlt | hge
    · interval_cases queueFree s <;> rfl
    · obtain ⟨n, e⟩ := Nat.exists_eq_add_of_le hge
      rw [e, show 3 + n - 1 = (n + 1) + 1 by omega, show n + 1 + 1 - 1 = n + 1 by omega,
        show 3 + n = n + 1 + 1 + 1 by omega]
      simp
  · unfold enqueueBytes
    have e : s.wr + min 1 (queueFree s) + (min 1 (queueFree s - 1) + min 1 (queueFree s - 1 - 1)) =
        s.wr + min 3 (queueFree s) := by omega
    rw [c3, b3, a3, hc1, hc2, b2, a2, Nat.mod_add_mod, Nat.add_assoc, Nat.mod_add_mod, e]

theorem enqueueBytes_frame (m : Message) (s : State) :
    enqueueBytes m s = { s with wr := (enqueueBytes m s).wr, q := (enqueueBytes m s).q } := by
  unfold enqueueBytes
  rw [(enqueue_frame m.data2 _).1, (enqueue_frame m.data1 _).1, (enqueue_frame m.status _).1]

/-- No slot is written but the three from WR. -/
theorem enqueueBytes_slots (m : Message) (s : State) (h : Admitted s) (a : Nat) (h0 : a ≠ s.wr)
    (h1 : a ≠ (s.wr + 1) % s.cfg.cap) (h2 : a ≠ (s.wr + 2) % s.cfg.cap) :
    memRead (enqueueBytes m s) a = memRead s a := by
  obtain ⟨-, a2, a3, a4⟩ := enqueue_take m.status s h
  obtain ⟨-, b2, b3, -⟩ := enqueue_take m.data1 _ a4
  have hc1 : (enqueue m.status s).cfg = s.cfg := by rw [(enqueue_frame m.status s).1]
  have e0 := Nat.mod_eq_of_lt h.wr
  have g1 : a ≠ (enqueue m.status s).wr := by
    rw [a3]
    rcases Nat.eq_zero_or_pos (queueFree s) with e | e
    · rw [e]
      simpa [e0] using h0
    · rwa [Nat.min_eq_left e]
  have g2 : a ≠ (enqueue m.data1 (enqueue m.status s)).wr := by
    rw [b3, a3, hc1, a2, Nat.mod_add_mod, Nat.add_assoc]
    have : min 1 (queueFree s) + min 1 (queueFree s - 1) = 0 ∨ min 1 (queueFree s) + min 1 (queueFree s - 1) = 1 ∨
        min 1 (queueFree s) + min 1 (queueFree s - 1) = 2 := by omega
    rcases this with e | e | e <;> rw [e]
    · simpa [e0] using h0
    · exact h1
    · exact h2
  unfold enqueueBytes
  rw [(enqueue_frame m.data2 _).2 a g2, (enqueue_frame m.data1 _).2 a g1, (enqueue_frame m.status _).2 a h0]

theorem raise_frame (g : Signal) (s : State) :
    raise g s = { s with
      wr := (raise g s).wr, q := (raise g s).q, wires := { s.wires with signals := (raise g s).wires.signals } } := rfl

/-- Everything ENQUEUE_MSG does. -/
theorem enqueueMsg_spec (m : Message) (s : State) (h : Admitted s) :
    Offered m s (enqueueMsg m s) ∧
    enqueueMsg m s = { s with
      wr := (enqueueMsg m s).wr, q := (enqueueMsg m s).q,
      wires := { s.wires with signals := (enqueueMsg m s).wires.signals } } ∧
    Admitted (enqueueMsg m s) := by
  obtain ⟨h1, h2, h3⟩ := enqueueBytes_spec m s h
  have hf := enqueueBytes_frame m s
  have hsig : (enqueueBytes m s).wires = s.wires := by rw [hf]
  have hrd : (enqueueBytes m s).rd = s.rd := by rw [hf]
  have hs := enqueueBytes_slots m s h
  unfold enqueueMsg
  split
  · rename_i hroom
    refine ⟨⟨fun _ => ⟨?_, ?_, by rw [hsig]⟩, fun hl => absurd hl (by omega), fun hl => absurd hl (by omega), hrd, hs⟩,
      ?_, h3⟩
    · rw [h2, Nat.min_eq_left hroom]
    · rw [h1, List.take_of_length_le (by simpa [Message.bytes] using hroom)]
    · rw [hsig]
      exact hf
  · rename_i hroom
    split
    · rename_i hat
      refine ⟨⟨fun hr => absurd hr hroom, fun _ _ => ?_, fun _ hn => ?_, by simp, fun _ _ _ _ => by simp [memRead]⟩, ?_,
        h.of_eq (by simp) (by simpa using h.pos) (by simpa using h.wr) (by simpa using h.rd)⟩
      · simp [SameQueue]
      · simp [hat] at hn
      · exact raise_frame _ s
    · rename_i hat
      refine ⟨⟨fun hr => absurd hr hroom, fun _ hn => absurd hn hat, fun _ _ => ⟨?_, ?_, ?_⟩, by simpa using hrd, ?_⟩,
        ?_, h3.of_eq (by simp) (by simpa using h3.pos) (by simpa using h3.wr) (by simpa using h3.rd)⟩
      · rw [raise_wr, h2, Nat.min_eq_right (by omega)]
      · rw [liveBytes_congr (raise_wr _ _) (raise_rd _ _) (raise_q _ _) (by simp), h1]
      · simp [hsig]
      · intro a a0 a1 a2
        rw [← hs a a0 a1 a2]
        simp [memRead]
      · rw [hf, raise_frame]

end Sys2Proof.Machine
end

