-- ==== Sys2Proof/Laws/Detector.lean ====
section
/-! SUPPORT. What the parts of a capture do. -/

namespace Sys2Proof.Machine

/-! The note -/

theorem note_lo {p : Position} (h1 : 1 ≤ p.toNat) (h2 : p.toNat ≤ 31) (t : Int) :
    note p t = some (t + 98 - 2 * p.toNat) := by
  simp [note, h1, h2, noteBaseLo]

theorem note_hi {p : Position} (h1 : 34 ≤ p.toNat) (h2 : p.toNat ≤ 63) (t : Int) :
    note p t = some (t + 101 - 2 * (p.toNat - 31)) := by
  have : ¬ p.toNat ≤ 31 := by omega
  simp [note, h1, h2, this, noteBaseHi]

theorem note_none {p : Position} (h : ¬ (1 ≤ p.toNat ∧ p.toNat ≤ 31)) (h' : ¬ (34 ≤ p.toNat ∧ p.toNat ≤ 63)) (t : Int) :
    note p t = none := by
  simp only [note, if_neg h, if_neg h']

theorem validKey_iff (p : Position) :
    validKey p = true ↔ (1 ≤ p.toNat ∧ p.toNat ≤ 31) ∨ (34 ≤ p.toNat ∧ p.toNat ≤ 63) := by
  simp [validKey]

/-- NOTE is defined exactly at the key positions. -/
theorem note_isSome_iff (p : Position) (t : Int) : (note p t).isSome = true ↔ validKey p = true := by
  rw [validKey_iff]
  by_cases h1 : 1 ≤ p.toNat ∧ p.toNat ≤ 31
  · rw [note_lo h1.1 h1.2]
    simp [h1]
  · by_cases h2 : 34 ≤ p.toNat ∧ p.toNat ≤ 63
    · rw [note_hi h2.1 h2.2]
      simp [h2]
    · rw [note_none h1 h2]
      simp only [Option.isSome_none, reduceCtorEq, false_iff]
      tauto

theorem noteBits_of_toNat (n : BitVec 7) (k : Int) (h : (n.toNat : Int) = k) : noteBits k = n := by
  subst h
  apply BitVec.eq_of_toNat_eq
  simp [noteBits]

/-! The key table -/

/-- Everything BLOCK_SNAPSHOT does. -/
theorem blockSnapshot_spec (b : Nat) (s : State) (h : b < 9) :
    (blockSnapshot b s).snap = ktByte s b ∧
    (∀ c, ktByte (blockSnapshot b s) c = if c = b then 0 else ktByte s c) ∧
    blockSnapshot b s = { s with snap := (blockSnapshot b s).snap, kt := (blockSnapshot b s).kt } := by
  refine ⟨rfl, fun c => ?_, rfl⟩
  unfold blockSnapshot
  rw [ktByte_setKtByte _ _ _ _ h]
  rfl

/-- Everything BIT_STORE does. -/
theorem bitStore_spec (b i : Nat) (d : Bool) (s : State) (h : b < 9) :
    (∀ c, ktByte (bitStore b i d s) c = if c = b then ktByte s b ||| (bitByte d <<< i) else ktByte s c) ∧
    bitStore b i d s = { s with kt := (bitStore b i d s).kt } := by
  refine ⟨fun c => ?_, rfl⟩
  unfold bitStore
  rw [ktByte_setKtByte _ _ _ _ h]

theorem blockOf_lt {p : Position} (h : isPosition p) : blockOf p < 9 := by
  unfold blockOf
  have := h.2
  omega

/-- Where the POS7 word selects a snapshot, and of which block. -/
theorem decodePos7_spec : ∀ p : Position, isPosition p →
    decodePos7 p = if p = 1 then some .first
      else if h : p.toNat % 8 = 0 ∧ p.toNat / 8 < 9 then some (.block ⟨p.toNat / 8, h.2⟩) else none := by
  decide

open Classical in
/-- Step 1 of a capture. -/
theorem captureSnapshot_eq (p : Position) (s : State) (h : isPosition p) :
    captureSnapshot p s = if SnapshotAt s.cfg p then blockSnapshot (blockOf p) s else s := by
  have h9 : p.toNat / 8 < 9 := blockOf_lt h
  unfold captureSnapshot SnapshotAt
  rw [decodePos7_spec p h]
  by_cases h1 : p = 1
  · subst h1
    simp [blockOf]
  · rw [if_neg h1]
    by_cases h8 : p.toNat % 8 = 0
    · simp [h8, h9, blockOf]
    · rw [dif_neg (fun e => h8 e.1)]
      exact (if_neg (fun e => e.elim h8 (fun e => h1 e.1))).symm

/-- Steps 1 and 2 of a capture. -/
theorem captureStored_spec (p : Position) (d : Bool) (s : State) (old live : Byte) (h : isPosition p)
    (ho : PreviousByte s p old) (hl : LiveByte s p live) :
    let u := bitStore (blockOf p) (bitOf p) d (captureSnapshot p s)
    u.snap = old ∧ ktByte u (blockOf p) = live ||| (bitByte d <<< bitOf p) ∧
    (∀ c, c ≠ blockOf p → ktByte u c = ktByte s c) ∧ u = { s with snap := u.snap, kt := u.kt } := by
  intro u
  have hb := blockOf_lt h
  obtain ⟨h1, h2⟩ := bitStore_spec (blockOf p) (bitOf p) d (captureSnapshot p s) hb
  have hs : u.snap = (captureSnapshot p s).snap := rfl
  by_cases hc : SnapshotAt s.cfg p
  · have e : captureSnapshot p s = blockSnapshot (blockOf p) s := by
      rw [captureSnapshot_eq p s h, if_pos hc]
    obtain ⟨b1, b2, -⟩ := blockSnapshot_spec (blockOf p) s hb
    refine ⟨?_, ?_, fun c hcb => ?_, ?_⟩
    · rw [hs, e, b1, ho.1 hc]
      rfl
    · rw [h1, if_pos rfl, e, b2, if_pos rfl, hl.1 hc]
    · rw [h1, if_neg hcb, e, b2, if_neg hcb]
    · show bitStore _ _ _ (captureSnapshot p s) = _
      simp only [u, e]
      rfl
  · have e : captureSnapshot p s = s := by
      rw [captureSnapshot_eq p s h, if_neg hc]
    refine ⟨?_, ?_, fun c hcb => ?_, ?_⟩
    · rw [hs, e, ho.2 hc]
    · rw [h1, if_pos rfl, e, hl.2 hc]
      rfl
    · rw [h1, if_neg hcb, e]
    · simp only [u, e]
      rfl

/-! The arms -/

/-- Which arm a CAPSEL3 word selects. -/
theorem decodeCapsel3_spec : ∀ k x e : Bool, decodeCapsel3 (capsel3Word k x e) =
    if k && x then .keyTransition e else if !k && e then .pedalSlot x
    else if k then .idleMarkKey e else .idleMarkFiller x := by
  decide

/-- Everything the third part of a capture does: one of the three arms. -/
theorem captureArm_eq (p : Position) (d ped : Bool) (s : State) :
    captureArm p d ped s =
      if validKey p = true ∧ d ≠ s.snap.getLsbD (bitOf p) then keyTransition p d s
      else if p = 64 then pedalSlot ped s else idleMark s := by
  have hv : (p == 64) = true → validKey p = false := by
    intro h
    rw [beq_iff_eq] at h
    subst h
    decide
  have hx : d ≠ s.snap.getLsbD (bitOf p) ↔ (d != s.snap.getLsbD (bitOf p)) = true := by simp
  have he : p = 64 ↔ (p == 64) = true := beq_iff_eq.symm
  unfold captureArm captureWord
  rw [decodeCapsel3_spec]
  simp only [hx, he]
  clear hx he
  revert hv
  generalize validKey p = k
  generalize (d != s.snap.getLsbD (bitOf p)) = x
  generalize (p == 64) = e
  intro hv
  cases k <;> cases x <;> cases e <;> simp at hv ⊢

theorem flagTransition_spec (s : State) : flagTransition s = { s with event := true, idle := false } := rfl

theorem flagPedal_spec (s : State) : flagPedal s = { s with event := (s.cfg.pedalSetsEvent || s.event) } := by
  unfold flagPedal
  cases h : s.cfg.pedalSetsEvent <;> simp [setEvent]

/-- `Offered` speaks of the queue and the signals alone. -/
theorem Offered.of_eq {m : Message} {s s' t t' : State} (h : Offered m s t)
    (hw : s'.wr = s.wr) (hr : s'.rd = s.rd) (hq : s'.q = s.q) (hc : s'.cfg = s.cfg)
    (hg : s'.wires.signals = s.wires.signals)
    (hw' : t'.wr = t.wr) (hr' : t'.rd = t.rd) (hq' : t'.q = t.q) (hc' : t'.cfg = t.cfg)
    (hg' : t'.wires.signals = t.wires.signals) : Offered m s' t' := by
  have e1 : liveBytes s' = liveBytes s := liveBytes_congr hw hr hq (by rw [hc])
  have e2 : liveBytes t' = liveBytes t := liveBytes_congr hw' hr' hq' (by rw [hc'])
  have e3 : queueFree s' = queueFree s := (enqueue_congr_count hw hr (by rw [hc])).2
  obtain ⟨a, b, c, d, e⟩ := h
  refine ⟨?_, ?_, ?_, ?_, ?_⟩
  · rw [e1, e2, e3, hw, hw', hc, hg, hg']
    exact a
  · rw [e3, hc, hg, hg']
    unfold SameQueue at b ⊢
    rw [hw, hw', hr, hr', hq, hq']
    exact b
  · rw [e1, e2, e3, hw, hw', hc, hg, hg']
    exact c
  · rw [hr, hr', d]
  · rw [hw, hc]
    intro x x0 x1 x2
    have := e x x0 x1 x2
    unfold memRead at this ⊢
    rw [hq, hq', this]

/-- Everything KEY_TRANSITION does at a key position. -/
theorem keyTransition_spec (p : Position) (d : Bool) (s : State) (n : BitVec 7) (h : Admitted s)
    (hn : note p s.cfg.transpose = some (n.toNat : Int)) :
    let t := keyTransition p d s
    Offered (if d then msgNoteOn n else msgNoteOff n) s t ∧
    t = { s with
      event := true, idle := false, wr := t.wr, q := t.q, wires := { s.wires with signals := t.wires.signals } } ∧
    Admitted t := by
  intro t
  have e : t = enqueueMsg (if d then msgNoteOn n else msgNoteOff n) (flagTransition s) := by
    show keyTransition p d s = _
    unfold keyTransition
    rw [hn]
    simp only [noteBits_of_toNat n _ rfl]
  have ha : Admitted (flagTransition s) := h.of_eq rfl h.pos h.wr h.rd
  obtain ⟨h1, h2, h3⟩ := enqueueMsg_spec (if d then msgNoteOn n else msgNoteOff n) (flagTransition s) ha
  rw [← e] at h1 h2 h3
  refine ⟨h1.of_eq rfl rfl rfl rfl rfl rfl rfl rfl rfl rfl, ?_, h3⟩
  rw [flagTransition_spec] at h2
  exact h2

/-- Everything PEDAL_SLOT does. -/
theorem pedalSlot_spec (ped : Bool) (s : State) (h : Admitted s) :
    let t := pedalSlot ped s
    t.pedalPrev = bitByte ped ∧
    (s.pedalPrev = bitByte ped → t = { s with pedalPrev := bitByte ped }) ∧
    (s.pedalPrev ≠ bitByte ped →
      Offered (msgCcDamper ped) s t ∧
      t = { s with
        pedalPrev := bitByte ped, event := (s.cfg.pedalSetsEvent || s.event), wr := t.wr, q := t.q,
        wires := { s.wires with signals := t.wires.signals } }) ∧
    Admitted t := by
  intro t
  by_cases hp : s.pedalPrev = bitByte ped
  · have e : t = setPedalPrev (bitByte ped) s := by
      show pedalSlot ped s = _
      unfold pedalSlot
      rw [if_pos hp.symm]
    rw [e]
    exact ⟨rfl, fun _ => rfl, fun hn => absurd hp hn, h.of_eq rfl h.pos h.wr h.rd⟩
  · have e : t = setPedalPrev (bitByte ped) (enqueueMsg (msgCcDamper ped) (flagPedal s)) := by
      show pedalSlot ped s = _
      unfold pedalSlot
      rw [if_neg (fun x => hp x.symm)]
    have hf := flagPedal_spec s
    have ha : Admitted (flagPedal s) := by
      rw [hf]
      exact h.of_eq rfl h.pos h.wr h.rd
    obtain ⟨h1, h2, h3⟩ := enqueueMsg_spec (msgCcDamper ped) (flagPedal s) ha
    refine ⟨by rw [e]; rfl, fun hn => absurd hn hp, fun _ => ⟨?_, ?_⟩, by rw [e]; exact h3.of_eq rfl h3.pos h3.wr h3.rd⟩
    · rw [e]
      rw [hf] at h1
      exact h1.of_eq rfl rfl rfl rfl rfl (by rw [hf]; rfl) (by rw [hf]; rfl) (by rw [hf]; rfl) (by rw [hf]; rfl)
        (by rw [hf]; rfl)
    · rw [e, h2, hf]
      rfl

end Sys2Proof.Machine
end

