-- ==== Sys2Proof/Laws/Capture.lean ====
section
/-! SUPPORT. What a capture, a scheduler run and an iteration do. -/

namespace Sys2Proof.Machine

open Classical in
/-- The byte a capture at `p` compares with exists and is one. -/
theorem previousByte_exists (s : State) (p : Position) : ∃ v, PreviousByte s p v :=
  ⟨if SnapshotAt s.cfg p then ktByte s (p.toNat / 8) else s.snap, fun h => if_pos h, fun h => if_neg h⟩

open Classical in
theorem liveByte_exists (s : State) (p : Position) : ∃ v, LiveByte s p v :=
  ⟨if SnapshotAt s.cfg p then 0 else ktByte s (p.toNat / 8), fun h => if_pos h, fun h => if_neg h⟩

/-- In an admitted configuration every note is a 7-bit number (spec/42_note_mapper.md R123). -/
theorem note_bits {c : Config} {p : Position} {k : Int} (hc : c.transposeOk) (h : note p c.transpose = some k) :
    ∃ n : BitVec 7, k = (n.toNat : Int) := by
  have hk : 0 ≤ k ∧ k ≤ 127 := by
    by_cases h1 : 1 ≤ p.toNat ∧ p.toNat ≤ 31
    · rw [note_lo h1.1 h1.2] at h
      have := Option.some.inj h
      have := hc.1
      have := hc.2
      omega
    · by_cases h2 : 34 ≤ p.toNat ∧ p.toNat ≤ 63
      · rw [note_hi h2.1 h2.2] at h
        have := Option.some.inj h
        have := hc.1
        have := hc.2
        omega
      · simp [note_none h1 h2] at h
  refine ⟨BitVec.ofNat 7 k.toNat, ?_⟩
  rw [BitVec.toNat_ofNat, Nat.mod_eq_of_lt (by omega)]
  omega

/-- What a capture leaves in the table, and the three things that can happen beside. `old` is the byte of the previous
pass, `live` what the bit is stored into. -/
structure Captured (p : Position) (d ped : Bool) (old live : Byte) (s t : State) : Prop where
  snap : t.snap = old
  stored : ktByte t (blockOf p) = live ||| (bitByte d <<< bitOf p)
  others : ∀ c, c ≠ blockOf p → ktByte t c = ktByte s c
  arms :
    (validKey p = true ∧ d ≠ old.getLsbD (bitOf p) ∧ ∃ n : BitVec 7, note p s.cfg.transpose = some (n.toNat : Int) ∧
      Offered (if d then msgNoteOn n else msgNoteOff n) s t ∧
      t = { s with
        snap := t.snap, kt := t.kt, event := true, idle := false, wr := t.wr, q := t.q,
        wires := { s.wires with signals := t.wires.signals } }) ∨
    (p = 64 ∧ t.pedalPrev = bitByte ped ∧
      ((s.pedalPrev = bitByte ped ∧ t = { s with snap := t.snap, kt := t.kt, pedalPrev := t.pedalPrev }) ∨
        (s.pedalPrev ≠ bitByte ped ∧ Offered (msgCcDamper ped) s t ∧
          t = { s with
            snap := t.snap, kt := t.kt, pedalPrev := t.pedalPrev, event := (s.cfg.pedalSetsEvent || s.event),
            wr := t.wr, q := t.q, wires := { s.wires with signals := t.wires.signals } }))) ∨
    (p ≠ 64 ∧ (validKey p = true → d = old.getLsbD (bitOf p)) ∧
      t = { s with snap := t.snap, kt := t.kt, idle := true })
  admitted : Admitted t

/-- Everything CAPTURE does. -/
theorem capture_spec (p : Position) (d ped : Bool) (s : State) (old live : Byte) (h : Admitted s) (hp : isPosition p)
    (ho : PreviousByte s p old) (hl : LiveByte s p live) : Captured p d ped old live s (capture p d ped s) := by
  obtain ⟨u1, u2, u3, u4⟩ := captureStored_spec p d s old live hp ho hl
  generalize hu : bitStore (blockOf p) (bitOf p) d (captureSnapshot p s) = u at u1 u2 u3 u4
  have ha : Admitted u := by
    rw [u4]
    exact h.of_eq rfl h.pos h.wr h.rd
  have hcap : capture p d ped s = captureArm p d ped u := by rw [← hu]; rfl
  have harm := captureArm_eq p d ped u
  rw [u1] at harm
  have ktu : ∀ t : State, t.kt = u.kt → ∀ c, ktByte t c = ktByte u c := fun t e c => by
    unfold ktByte
    rw [e]
  by_cases hk : validKey p = true ∧ d ≠ old.getLsbD (bitOf p)
  · rw [if_pos hk] at harm
    have hsome := (note_isSome_iff p u.cfg.transpose).2 hk.1
    obtain ⟨k, hn⟩ := Option.isSome_iff_exists.1 hsome
    obtain ⟨n, rfl⟩ := note_bits ha.transpose hn
    obtain ⟨t1, t2, t3⟩ := keyTransition_spec p d u n ha hn
    rw [← harm, ← hcap] at t1 t2 t3
    have hkt : (capture p d ped s).kt = u.kt := by rw [t2]
    have hsn : (capture p d ped s).snap = u.snap := by rw [t2]
    refine ⟨hsn.trans u1, (ktu _ hkt _).trans u2, fun c hc => (ktu _ hkt c).trans (u3 c hc), .inl ⟨hk.1, hk.2, n, ?_, ?_, ?_⟩,
      t3⟩
    · rw [u4] at hn
      exact hn
    · rw [u4] at t1
      exact t1.of_eq rfl rfl rfl rfl rfl rfl rfl rfl rfl rfl
    · rw [hkt, hsn]
      refine t2.trans ?_
      rw [u4]
  · rw [if_neg hk] at harm
    by_cases h64 : p = 64
    · rw [if_pos h64] at harm
      obtain ⟨t1, t2, t3, t4⟩ := pedalSlot_spec ped u ha
      rw [← harm, ← hcap] at t1 t2 t3 t4
      have hpp : u.pedalPrev = s.pedalPrev := by rw [u4]
      have hkt : (capture p d ped s).kt = u.kt ∧ (capture p d ped s).snap = u.snap := by
        by_cases hq : u.pedalPrev = bitByte ped
        · rw [t2 hq]
          exact ⟨rfl, rfl⟩
        · rw [(t3 hq).2]
          exact ⟨rfl, rfl⟩
      refine ⟨hkt.2.trans u1, (ktu _ hkt.1 _).trans u2, fun c hc => (ktu _ hkt.1 c).trans (u3 c hc),
        .inr (.inl ⟨h64, t1, ?_⟩), t4⟩
      by_cases hq : u.pedalPrev = bitByte ped
      · refine .inl ⟨hpp ▸ hq, ?_⟩
        rw [hkt.1, hkt.2, t1]
        refine (t2 hq).trans ?_
        rw [u4]
      · refine .inr ⟨hpp ▸ hq, ?_, ?_⟩
        · have := (t3 hq).1
          rw [u4] at this
          exact this.of_eq rfl rfl rfl rfl rfl rfl rfl rfl rfl rfl
        · rw [hkt.1, hkt.2, t1]
          refine (t3 hq).2.trans ?_
          rw [u4]
    · rw [if_neg h64] at harm
      have e : capture p d ped s = idleMark u := hcap.trans harm
      refine ⟨by rw [e]; exact u1, by rw [e]; exact u2, fun c hc => by rw [e]; exact u3 c hc,
        .inr (.inr ⟨h64, fun hv => not_not.1 (fun hd => hk ⟨hv, hd⟩), ?_⟩), ?_⟩
      · rw [e, u4]
        rfl
      · rw [e]
        exact ha.of_eq rfl ha.pos ha.wr ha.rd

/-- A capture leaves POS, PREV, RD, the ports, the configuration and the model's own fields but the signals. -/
theorem Captured.frame {p : Position} {d ped : Bool} {old live : Byte} {s t : State} (h : Captured p d ped old live s t) :
    t = { s with
      snap := t.snap, kt := t.kt, pedalPrev := t.pedalPrev, event := t.event, idle := t.idle, wr := t.wr, q := t.q,
      wires := { s.wires with signals := t.wires.signals } } := by
  rcases h.arms with ⟨-, -, n, -, -, e⟩ | ⟨-, -, (⟨-, e⟩ | ⟨-, -, e⟩)⟩ | ⟨-, -, e⟩ <;>
    (have hw : t.wires = { s.wires with signals := t.wires.signals } := by rw [e]
     cases t
     simp only [State.mk.injEq] at e hw ⊢
     tauto)

end Sys2Proof.Machine
end

