-- ==== Sys2Proof/Laws/Iteration.lean ====
section
/-! SUPPORT. What the scheduler, an edge service and an iteration do. -/

namespace Sys2Proof.Machine

/-! The scheduler -/

theorem decodeTxsel5_spec : ∀ ev id nz r ne : Bool, decodeTxsel5 (txsel5Word ev id nz r ne) =
    if ev && id && nz then (if r then (if ne then .txByte else .txEventClear) else .txNotReady ne)
    else .txGated ev id nz r ne := by
  decide

theorem gateOpen_iff (s : State) : gateOpen s = true ↔ s.event = true ∧ s.idle = true ∧ s.pos ≠ 0 := by
  unfold gateOpen
  rw [Bool.and_eq_true, Bool.and_eq_true, bne_iff_ne, and_assoc]

/-- Everything TX_SCHED does: one of its outcomes. -/
theorem txSched_eq (r : Bool) (s : State) :
    txSched r s =
      if gateOpen s = true ∧ r = true then (if s.rd = s.wr then txEventClear s else txByte s) else portQuiet s := by
  unfold txSched schedulerWord
  rw [decodeTxsel5_spec]
  have hg : (s.event && s.idle && s.pos != 0) = gateOpen s := rfl
  have he : s.rd = s.wr ↔ queueEmpty s = true := by
    unfold queueEmpty
    rw [beq_iff_eq]
  simp only [hg, he]
  cases gateOpen s <;> cases r <;> cases queueEmpty s <;> simp

/-- TX_SCHED leaves everything but RD, EVENT, the port, TXLOG and the signals. -/
theorem txSched_frame (r : Bool) (s : State) :
    txSched r s = { s with
      rd := (txSched r s).rd, event := (txSched r s).event, txData := (txSched r s).txData,
      txWr := (txSched r s).txWr, txLog := (txSched r s).txLog,
      wires := { s.wires with signals := (txSched r s).wires.signals } } := by
  rw [txSched_eq]
  split
  · split <;> rfl
  · rfl

theorem txSched_admitted (r : Bool) (s : State) (h : Admitted s) : Admitted (txSched r s) := by
  rw [txSched_eq]
  split
  · split
    · exact h.of_eq (by simp [txEventClear]) (by simpa [txEventClear] using h.pos)
        (by simpa [txEventClear] using h.wr) (by simpa [txEventClear] using h.rd)
    · exact h.of_eq (by simp [txByte]) (by simpa [txByte] using h.pos) (by simpa [txByte] using h.wr)
        (by simpa [txByte, nextCursor] using Nat.mod_lt _ h.cap_pos)
  · exact h.of_eq (by simp) (by simpa using h.pos) (by simpa using h.wr) (by simpa using h.rd)

/-! The sampler -/

theorem riseMask_bit (cur prev : Lines) (k : Nat) :
    (riseMask cur prev).getLsbD k = (cur.getLsbD k && !prev.getLsbD k) := by
  simp only [riseMask, BitVec.getLsbD_and, BitVec.getLsbD_xor]
  cases cur.getLsbD k <;> cases prev.getLsbD k <;> rfl

theorem fallMask_bit (cur prev : Lines) (k : Nat) :
    (fallMask cur prev).getLsbD k = (prev.getLsbD k && !cur.getLsbD k) := by
  simp only [fallMask, BitVec.getLsbD_and, BitVec.getLsbD_xor]
  cases cur.getLsbD k <;> cases prev.getLsbD k <;> rfl

theorem inLines_bit (w : In5) (k : Nat) (h : k < 3) : (inLines w).getLsbD k = w.getLsbD k := by
  simp [inLines, h]

theorem sampled_wires (w : In5) (s : State) :
    (sampled w s).wires =
      { cur := inLines w, ped := pedalBit s.cfg w, rdy := inReady w, rise := riseMask (inLines w) s.prev,
        fall := fallMask (inLines w) s.prev, signals := [], result := .nothing } := rfl

theorem sampled_frame (w : In5) (s : State) : sampled w s = { s with wires := (sampled w s).wires } := rfl

theorem sampledData_sampled (w : In5) (s : State) : sampledData (sampled w s) = inData w := by
  unfold sampledData inData
  rw [sampled_wires]
  exact inLines_bit w 1 (by decide)

/-- Everything ADVANCE does. -/
theorem advance_spec (s : State) :
    (advance s).pos.toNat = (s.pos.toNat + 1) % 65 ∧ advance s = { s with pos := (advance s).pos } := by
  refine ⟨?_, rfl⟩
  show (BitVec.ofNat 7 ((s.pos.toNat + 1) % frameLen)).toNat = _
  rw [BitVec.toNat_ofNat]
  unfold frameLen
  exact Nat.mod_eq_of_lt (by omega)

theorem serviceAt_admitted (p : Position) (d ped : Bool) (s : State) (h : Admitted s) (hp : isPosition p) :
    Admitted (serviceAt p d ped s) := by
  obtain ⟨old, ho⟩ := previousByte_exists s p
  obtain ⟨live, hl⟩ := liveByte_exists s p
  have hc := (capture_spec p d ped s old live h hp ho hl).admitted
  obtain ⟨h1, h2⟩ := advance_spec (capture p d ped s)
  unfold serviceAt
  exact hc.of_eq (by rw [h2]) (by rw [h1]; omega) (by rw [h2]; exact hc.wr) (by rw [h2]; exact hc.rd)

/-- Which row a select word names, for the positions the block can hold: what each row's operands are. -/
theorem decodeSel9_rows : ∀ (f r : Bool) (p : Position), p.toNat ≤ 64 →
    (match decodeSel9 (sel9Word f r p) with
      | .syncExit r' => p = 0 ∧ f = true ∧ r' = r
      | .syncHold _ => p = 0 ∧ f = false
      | .noEdge _ _ => p ≠ 0 ∧ r = false
      | .capturePedal _ => p ≠ 0 ∧ r = true ∧ pedalPosition = p
      | .captureFiller _ q => p ≠ 0 ∧ r = true ∧ fillerPosition q = p
      | .captureKeyHi _ q => p ≠ 0 ∧ r = true ∧ keyHiPosition q = p
      | .captureKeyLo _ q => p ≠ 0 ∧ r = true ∧ keyLoPosition q = p
      | .unreachablePos _ _ => False) := by
  intro f r p hp
  have key : ∀ (f r : Bool) (p : Position), (match decodeSel9 (sel9Word f r p) with
      | .syncExit r' => p == 0 && f && (r' == r)
      | .syncHold _ => p == 0 && !f
      | .noEdge _ _ => p != 0 && !r
      | .capturePedal _ => p != 0 && r && pedalPosition == p
      | .captureFiller _ q => p != 0 && r && fillerPosition q == p
      | .captureKeyHi _ q => p != 0 && r && keyHiPosition q == p
      | .captureKeyLo _ q => p != 0 && r && keyLoPosition q == p
      | .unreachablePos _ _ => decide (64 < p.toNat)) = true := by decide
  have := key f r p
  revert this
  cases decodeSel9 (sel9Word f r p) <;> simp +contextual [and_assoc]
  omega

/-- Everything the sampler part does, by POS and the two edges. -/
theorem samplerPart_eq (f r : Bool) (s : State) (h : s.pos.toNat ≤ 64) :
    samplerPart (decodeSel9 (sel9Word f r s.pos)) s =
      if s.pos = 0 then (if f = true then syncExit r (sampledData s) s.wires.ped s else s)
      else if r = true then serviceAt s.pos (sampledData s) s.wires.ped s else s := by
  have := decodeSel9_rows f r s.pos h
  revert this
  cases decodeSel9 (sel9Word f r s.pos) with
  | syncExit r' =>
    rintro ⟨h0, hf, rfl⟩
    rw [if_pos h0, if_pos hf]
    rfl
  | syncHold r' =>
    rintro ⟨h0, hf⟩
    rw [if_pos h0, hf]
    rfl
  | noEdge f' p =>
    rintro ⟨h0, hr⟩
    rw [if_neg h0, hr]
    rfl
  | capturePedal f' =>
    rintro ⟨h0, hr, hp⟩
    rw [if_neg h0, if_pos hr, ← hp]
    rfl
  | captureFiller f' q =>
    rintro ⟨h0, hr, hp⟩
    rw [if_neg h0, if_pos hr, ← hp]
    rfl
  | captureKeyHi f' q =>
    rintro ⟨h0, hr, hp⟩
    rw [if_neg h0, if_pos hr, ← hp]
    rfl
  | captureKeyLo f' q =>
    rintro ⟨h0, hr, hp⟩
    rw [if_neg h0, if_pos hr, ← hp]
    rfl
  | unreachablePos f' q => exact False.elim

/-- The sampler part of an iteration on `w`, as spec/40_frame_sampler.md R80 writes it. -/
def sampledPart (w : In5) (s : State) : State :=
  if s.pos = 0 then
    (if (s.prev.getLsbD 2 && !w.getLsbD 2) = true then
      syncExit (w.getLsbD 0 && !s.prev.getLsbD 0) (inData w) (pedalBit s.cfg w) (sampled w s)
    else sampled w s)
  else if (w.getLsbD 0 && !s.prev.getLsbD 0) = true then serviceAt s.pos (inData w) (pedalBit s.cfg w) (sampled w s)
  else sampled w s

/-- The row that the select word of an iteration names does what R80 writes. -/
theorem samplerPart_sampled (w : In5) (s : State) (h : s.pos.toNat ≤ 64) :
    samplerPart (decodeSel9 (samplerWord (sampled w s))) (sampled w s) = sampledPart w s := by
  unfold sampledPart samplerWord
  have hs := samplerPart_eq ((sampled w s).wires.fall.getLsbD 2) ((sampled w s).wires.rise.getLsbD 0) (sampled w s) h
  rw [hs, sampledData_sampled, sampled_wires]
  simp only [riseMask_bit, fallMask_bit, inLines_bit w 0 (by decide), inLines_bit w 2 (by decide)]
  rfl

/-- An iteration is R80's pseudocode. -/
theorem iteration_eq (w : In5) (s : State) (h : s.pos.toNat ≤ 64) :
    iteration w s = txSched (inReady w) (prevUpdate (inLines w) (sampledPart w s)) := by
  unfold iteration
  rw [samplerPart_sampled w s h]

theorem sampled_admitted (w : In5) (s : State) (h : Admitted s) : Admitted (sampled w s) :=
  h.of_eq rfl h.pos h.wr h.rd

theorem syncExit_admitted (r d ped : Bool) (s : State) (h : Admitted s) : Admitted (syncExit r d ped s) := by
  have h1 : Admitted (setPos 1 s) := h.of_eq rfl (by simp) h.wr h.rd
  unfold syncExit
  split
  · exact serviceAt_admitted 1 d ped _ h1 (by decide)
  · exact h1

theorem isPosition_of_ne {p : Position} (h : p.toNat ≤ 64) (h0 : p ≠ 0) : isPosition p := by
  refine ⟨Nat.one_le_iff_ne_zero.2 fun e => h0 ?_, h⟩
  exact BitVec.eq_of_toNat_eq e

theorem sampledPart_admitted (w : In5) (s : State) (h : Admitted s) : Admitted (sampledPart w s) := by
  have hs := sampled_admitted w s h
  unfold sampledPart
  split
  · split
    · exact syncExit_admitted _ _ _ _ hs
    · exact hs
  · rename_i h0
    split
    · exact serviceAt_admitted _ _ _ _ hs (isPosition_of_ne h.pos h0)
    · exact hs

/-- An iteration keeps a state admitted. -/
theorem iteration_admitted (w : In5) (s : State) (h : Admitted s) : Admitted (iteration w s) := by
  rw [iteration_eq w s h.pos]
  have hp := sampledPart_admitted w s h
  exact txSched_admitted _ _ (hp.of_eq rfl hp.pos hp.wr hp.rd)

/-- Everything ITERATION answers. -/
theorem exec_iteration_eq_next {w : In5} {s t : State} (h : exec (.iteration w) s = .next t) :
    Admitted s ∧ t = iteration w s := proceed_eq_next h

/-- Everything a step can do when it answers a next state: an iteration on the levels of the move, or RESET. -/
theorem step_cases {s t : State} (h : step s = .next t) :
    (∃ w, nextStimulus s = .levels w ∧ Admitted s ∧ t = iteration w (takeStimulus s)) ∨
    (nextStimulus s = .reset ∧ Admitted s ∧ t = resetBlock (takeStimulus s)) := by
  unfold step at h
  cases hm : nextStimulus s with
  | levels w =>
    rw [hm] at h
    obtain ⟨ha, ht⟩ := exec_iteration_eq_next h
    exact .inl ⟨w, rfl, ha.of_eq rfl ha.pos ha.wr ha.rd, ht⟩
  | reset =>
    rw [hm] at h
    obtain ⟨ha, ht⟩ := proceed_eq_next (h : resetOutcome (takeStimulus s) = .next t)
    exact .inr ⟨rfl, ha.of_eq rfl ha.pos ha.wr ha.rd, ht⟩

/-- In a state that is not admitted every step is refused, RESET among them. -/
theorem step_of_not_admitted {s : State} (h : ¬ Admitted s) : ∃ r, step s = .refused r := by
  have ht : ¬ Admitted (takeStimulus s) := fun a => h (a.of_eq rfl a.pos a.wr a.rd)
  unfold step
  cases nextStimulus s with
  | levels w => exact proceed_of_not_admitted ht _
  | reset => exact proceed_of_not_admitted ht _

end Sys2Proof.Machine
end

