-- ==== Sys2Proof/Laws/PerInstr.lean ====
section
/-! SUPPORT. Facts about every operation as syntax, one lemma for each constructor. -/

namespace Sys2Proof.Laws.EncodedLength

/-- The number of bytes a word of a format has. -/
def formatBytes : Format → Nat
  | .msg24 => 3
  | .sel9 => 2
  | .pos7 => 1
  | .capsel3 => 1
  | .txsel5 => 1
  | .in5 => 1

/-- An operation that has a word has one of its format's length (spec/30_encoding.md R60, R72). -/
def Statement (i : Instr) : Prop := ∀ p, encode i = some p → p.2.length = formatBytes p.1

/-- A word laid out in its format has the format's length. -/
theorem bytes_length (fmt : Format) (w : Nat) : (fmt.bytes w).length = formatBytes fmt := by cases fmt <;> rfl

/-- It is enough to know where the word comes from. -/
theorem of_encode (i : Instr) : Statement i := by
  intro p h
  unfold encode at h
  split at h
  · exact Option.some.inj h ▸ bytes_length _ _
  · exact absurd h (by simp)

theorem noteOn (n : BitVec 7) : Statement (.noteOn n) := of_encode _
theorem noteOff (n : BitVec 7) : Statement (.noteOff n) := of_encode _
theorem ccDamperReleased : Statement .ccDamperReleased := of_encode _
theorem ccDamperPressed : Statement .ccDamperPressed := of_encode _
theorem syncExit (r : Bool) : Statement (.syncExit r) := of_encode _
theorem syncHold (r : Bool) : Statement (.syncHold r) := of_encode _
theorem noEdge (f : Bool) (p : Position) : Statement (.noEdge f p) := of_encode _
theorem capturePedal (f : Bool) : Statement (.capturePedal f) := of_encode _
theorem captureFiller (f : Bool) (p : BitVec 1) : Statement (.captureFiller f p) := of_encode _
theorem captureKeyHi (f : Bool) (p : BitVec 5) : Statement (.captureKeyHi f p) := of_encode _
theorem captureKeyLo (f : Bool) (p : BitVec 5) : Statement (.captureKeyLo f p) := of_encode _
theorem unreachablePos (f : Bool) (p : BitVec 6) : Statement (.unreachablePos f p) := of_encode _
theorem blockSnapshotBlock (b : Fin 9) : Statement (.blockSnapshotBlock b) := of_encode _
theorem blockSnapshotFirst : Statement .blockSnapshotFirst := of_encode _
theorem keyTransition (e : Bool) : Statement (.keyTransition e) := of_encode _
theorem pedalSlot (x : Bool) : Statement (.pedalSlot x) := of_encode _
theorem idleMarkKey (e : Bool) : Statement (.idleMarkKey e) := of_encode _
theorem idleMarkFiller (x : Bool) : Statement (.idleMarkFiller x) := of_encode _
theorem txByte : Statement .txByte := of_encode _
theorem txEventClear : Statement .txEventClear := of_encode _
theorem txNotReady (ne : Bool) : Statement (.txNotReady ne) := of_encode _
theorem txGated (event : Bool) (idle : Bool) (posNz : Bool) (ready : Bool) (ne : Bool) : Statement (.txGated event idle posNz ready ne) := of_encode _
theorem iteration (w : In5) : Statement (.iteration w) := of_encode _
theorem sample (w : In5) : Statement (.sample w) := of_encode _
theorem edgeDetect (cur : Lines) : Statement (.edgeDetect cur) := of_encode _
theorem edgeService (d : Bool) (ped : Bool) : Statement (.edgeService d ped) := of_encode _
theorem capture (p : Position) (d : Bool) (ped : Bool) : Statement (.capture p d ped) := of_encode _
theorem bitStore (b : Fin 9) (i : Fin 8) (d : Bool) : Statement (.bitStore b i d) := of_encode _
theorem advance : Statement .advance := of_encode _
theorem prevUpdate (cur : Lines) : Statement (.prevUpdate cur) := of_encode _
theorem txSched (r : Bool) : Statement (.txSched r) := of_encode _
theorem note (p : Position) : Statement (.note p) := of_encode _
theorem msgNoteOn (n : BitVec 7) : Statement (.msgNoteOn n) := of_encode _
theorem msgNoteOff (n : BitVec 7) : Statement (.msgNoteOff n) := of_encode _
theorem msgCcDamper (ped : Bool) : Statement (.msgCcDamper ped) := of_encode _
theorem enqueueMsg (b0 : Byte) (b1 : Byte) (b2 : Byte) : Statement (.enqueueMsg b0 b1 b2) := of_encode _
theorem enqueue (v : Byte) : Statement (.enqueue v) := of_encode _
theorem dequeue : Statement .dequeue := of_encode _
theorem validKey (p : Position) : Statement (.validKey p) := of_encode _
theorem count : Statement .count := of_encode _
theorem free : Statement .free := of_encode _
theorem full : Statement .full := of_encode _
theorem empty : Statement .empty := of_encode _

end Sys2Proof.Laws.EncodedLength
end

