-- ==== Sys2Proof/Tests/Slice0.lean ====
section
/-! SUPPORT. The model's own tests: ill-formed operations refused, words written out from the tables of
spec/30_encoding.md, one step of each operation against spec/95_test_vectors.md, and for each statement with hypotheses
values that meet them. -/

namespace Sys2Proof.Tests

open Sys2Proof.Machine

/-! ## WellFormed: an ill-formed term for each check -/

theorem test_wf_noEdge : (Instr.noEdge true 0).wf = false := by decide
theorem test_wf_captureKeyHi_32 : (Instr.captureKeyHi true 0).wf = false := by decide
theorem test_wf_captureKeyHi_33 : (Instr.captureKeyHi true 1).wf = false := by decide
theorem test_wf_captureKeyLo : (Instr.captureKeyLo false 0).wf = false := by decide
theorem test_wf_unreachablePos : (Instr.unreachablePos false 0).wf = false := by decide
theorem test_wf_blockSnapshotBlock : (Instr.blockSnapshotBlock 0).wf = false := by decide
theorem test_wf_keyTransition : (Instr.keyTransition true).wf = false := by decide
theorem test_wf_idleMarkKey : (Instr.idleMarkKey true).wf = false := by decide
theorem test_wf_txGated : (Instr.txGated true true true false true).wf = false := by decide
theorem test_wf_capture_0 : (Instr.capture 0 true true).wf = false := by decide
theorem test_wf_capture_65 : (Instr.capture 65 true true).wf = false := by decide
theorem test_wf_note_0 : (Instr.note 0).wf = false := by decide
theorem test_wf_note_filler : (Instr.note 32).wf = false ∧ (Instr.note 33).wf = false := by decide
theorem test_wf_note_64 : (Instr.note 64).wf = false := by decide
theorem test_wf_positions : (Instr.capture 64 true true).wf = true ∧ (Instr.note 31).wf = true ∧
    (Instr.note 34).wf = true ∧ (Instr.note 63).wf = true := by decide

/-! ## Decode: a word of every row that has bits, written out from its pattern -/

-- R62, R63, R64: the byte values of spec/95_test_vectors.md section 5
theorem test_decode_noteOn : decode .msg24 [0b10010000, 0b01111111, 0b01000000] = .ok (.noteOn 127) := by decide
theorem test_decode_noteOff : decode .msg24 [0b10000000, 0b00100100, 0b00000000] = .ok (.noteOff 36) := by decide
theorem test_decode_ccDamperReleased :
    decode .msg24 [0b10110000, 0b01000000, 0b01111111] = .ok .ccDamperReleased := by decide
theorem test_decode_ccDamperPressed :
    decode .msg24 [0b10110000, 0b01000000, 0b00000000] = .ok .ccDamperPressed := by decide
-- R70 (c): another status, another data byte
theorem test_decode_noMessage : decode .msg24 [0xA0, 0x60, 0x40] = .error .noMessage ∧
    decode .msg24 [0x90, 0x60, 0x41] = .error .noMessage ∧ decode .msg24 [0xB0, 0x40, 0x01] = .error .noMessage ∧
    decode .msg24 [0x90, 0xE0, 0x40] = .error .noMessage := by decide
-- R69: {f, r, POS}, low byte first
theorem test_decode_syncExit : decode .sel9 [0b10000000, 0b1] = .ok (.syncExit true) := by decide
theorem test_decode_syncHold : decode .sel9 [0b10000000, 0b0] = .ok (.syncHold true) := by decide
theorem test_decode_noEdge : decode .sel9 [0b01000000, 0b1] = .ok (.noEdge true 64) := by decide
theorem test_decode_capturePedal : decode .sel9 [0b11000000, 0b1] = .ok (.capturePedal true) := by decide
theorem test_decode_captureFiller : decode .sel9 [0b10100001, 0b0] = .ok (.captureFiller false 1) := by decide
theorem test_decode_captureKeyHi : decode .sel9 [0b10100010, 0b0] = .ok (.captureKeyHi false 2) ∧
    decode .sel9 [0b10111111, 0b1] = .ok (.captureKeyHi true 31) := by decide
theorem test_decode_captureKeyLo : decode .sel9 [0b10000001, 0b0] = .ok (.captureKeyLo false 1) ∧
    decode .sel9 [0b10011111, 0b1] = .ok (.captureKeyLo true 31) := by decide
theorem test_decode_unreachablePos : decode .sel9 [0b11000001, 0b0] = .ok (.unreachablePos false 1) := by decide
-- R69, R101
theorem test_decode_blockSnapshotBlock : decode .pos7 [0b1000000] = .ok (.blockSnapshotBlock 8) ∧
    decode .pos7 [0b0001000] = .ok (.blockSnapshotBlock 1) := by decide
theorem test_decode_blockSnapshotFirst : decode .pos7 [0b0000001] = .ok .blockSnapshotFirst := by decide
theorem test_decode_noSnapshot : decode .pos7 [0] = .error .noSnapshot ∧ decode .pos7 [2] = .error .noSnapshot ∧
    decode .pos7 [72] = .error .noSnapshot := by decide
-- R69: {k, x, e}
theorem test_decode_keyTransition : decode .capsel3 [0b110] = .ok (.keyTransition false) := by decide
theorem test_decode_pedalSlot : decode .capsel3 [0b011] = .ok (.pedalSlot true) := by decide
theorem test_decode_idleMarkKey : decode .capsel3 [0b100] = .ok (.idleMarkKey false) := by decide
theorem test_decode_idleMarkFiller : decode .capsel3 [0b010] = .ok (.idleMarkFiller true) := by decide
-- R69: {EVENT, IDLE, POS != 0, TX_READY, RD != WR}
theorem test_decode_txByte : decode .txsel5 [0b11111] = .ok .txByte := by decide
theorem test_decode_txEventClear : decode .txsel5 [0b11110] = .ok .txEventClear := by decide
theorem test_decode_txNotReady : decode .txsel5 [0b11101] = .ok (.txNotReady true) := by decide
theorem test_decode_txGated : decode .txsel5 [0b10111] = .ok (.txGated true false true true true) := by decide
-- R73: `IN 1 1 0 1 1` = 0x1B
theorem test_decode_iteration : decode .in5 [0b11011] = .ok (.iteration 0x1B) ∧
    in5Word true true false true true = 0x1B ∧ in5Word false false true true true = 0x1C := by decide
theorem test_decode_lengths : decode .in5 [] = .error .wrongLength ∧ decode .sel9 [0] = .error .wrongLength ∧
    decode .msg24 [0x90, 0x60] = .error .wrongLength := by decide
theorem test_decode_spareBits : decode .in5 [0x20] = .error .spareBitSet ∧
    decode .sel9 [0, 2] = .error .spareBitSet ∧ decode .capsel3 [8] = .error .spareBitSet := by decide
-- the words of the opcode table, numbered as the table numbers them
theorem test_table_words : decodeTableWord 24 0x906040 = some (.noteOn 96) ∧
    decodeTableWord 16 0x185 = some (.captureKeyLo true 5) ∧ decodeTableWord 8 0x1F = some .txByte ∧
    decodeTableWord 8 0xC0 = some (.capturePedal false) ∧ decodeTableWord 0 0 = some (.iteration 0) := by decide

/-! ## One step of each operation -/

/-- What is read of the next state; none for a refusal. -/
def after {α : Type} (o : Host.Outcome State Fault Refusal) (f : State → α) : Option α :=
  match o with
  | .next t => some (f t)
  | .fault _ => none
  | .refused _ => none

/-- The refusal. -/
def refusal (o : Host.Outcome State Fault Refusal) : Option Refusal :=
  match o with
  | .next _ => none
  | .fault _ => none
  | .refused r => some r

/-- A state with CAP = 8, its cursors at `wr` and `rd`, and `q` stored. -/
def queued (wr rd : Nat) (q : Memory) : State :=
  { State.reset with cfg := { Config.base with cap := 8 }, wr := wr, rd := rd, q := q }

/-- A state at a position, with a KT byte and SNAP, its queue empty. -/
def scanning (p : Position) (b : Nat) (live snap : Byte) : State :=
  setKtByte b live { State.reset with pos := p, snap := snap }

/-- With the sampled data and pedal bits. -/
def withSample (d ped : Bool) (s : State) : State := { s with wires := { cur := if d then 2 else 0, ped := ped } }

/-- What is read after a capture. -/
structure Captured where
  live : Byte
  snap : Byte
  event : Bool
  idle : Bool
  q : Memory
deriving DecidableEq, Repr

/-- The KT byte of a block, SNAP, the flags and the queue. -/
def captured (b : Nat) (t : State) : Captured := ⟨ktByte t b, t.snap, t.event, t.idle, t.q⟩

-- section 5: ENQUEUE_MSG with CAP = 8, and the message words
theorem test_noteOn : after (exec (.noteOn 84) (queued 0 0 [])) (fun t => (t.wr, t.q)) =
    some (3, [(0, 0x90), (1, 0x54), (2, 0x40)]) := by decide
theorem test_noteOff : after (exec (.noteOff 36) (queued 6 2 [])) (fun t => (t.wr, t.q)) =
    some (1, [(0, 0x00), (6, 0x80), (7, 0x24)]) := by decide
theorem test_ccDamperReleased : after (exec .ccDamperReleased (queued 3 0 [])) (fun t => (t.wr, t.q)) =
    some (6, [(3, 0xB0), (4, 0x40), (5, 0x7F)]) := by decide
theorem test_ccDamperPressed : after (exec .ccDamperPressed (queued 6 1 [])) (fun t => (t.wr, t.q, t.wires.signals)) =
    some (6, [], [.queueFull ⟨0xB0, 0x40, 0x00⟩]) := by decide
theorem test_enqueueMsg_room : after (exec (.enqueueMsg 0x90 0x50 0x40) (queued 6 2 [])) (fun t => (t.wr, t.q)) =
    some (1, [(0, 0x40), (6, 0x90), (7, 0x50)]) := by decide
theorem test_enqueueMsg_dropped : after (exec (.enqueueMsg 0x90 0x50 0x40) (queued 6 0 []))
    (fun t => (t.wr, t.q, t.wires.signals)) = some (6, [], [.queueFull ⟨0x90, 0x50, 0x40⟩]) := by decide
theorem test_msgNoteOn : after (exec (.msgNoteOn 96) State.reset) (·.wires.result) =
    some (.message ⟨0x90, 0x60, 0x40⟩) := by decide
theorem test_msgNoteOff : after (exec (.msgNoteOff 95) State.reset) (·.wires.result) =
    some (.message ⟨0x80, 0x5F, 0x00⟩) := by decide
theorem test_msgCcDamper : after (exec (.msgCcDamper true) State.reset) (·.wires.result) =
    some (.message ⟨0xB0, 0x40, 0x7F⟩) := by decide

-- section 3: sequencer transfers
theorem test_syncExit : after (exec (.syncExit true) State.reset) (fun t => (t.pos, t.kt)) =
    some (1, State.reset.kt) := by decide
theorem test_syncHold : after (exec (.syncHold true) State.reset) (·.pos) = some 0 := by decide
theorem test_noEdge : after (exec (.noEdge true 64) (scanning 64 8 1 0)) (fun t => (t.pos, ktByte t 8)) =
    some (64, 1) := by decide
theorem test_advance_wrap : after (exec .advance (scanning 64 0 0 0)) (·.pos) = some 0 := by decide
theorem test_advance : after (exec .advance (scanning 31 0 0 0)) (·.pos) = some 32 := by decide
theorem test_sample : after (exec (.sample 0x0B) State.reset) (fun t => (t.wires.cur, t.wires.ped, t.wires.rdy)) =
    some (0b011, true, false) := by decide
theorem test_edgeDetect : after (exec (.edgeDetect 0b001) { State.reset with prev := 0b100 })
    (fun t => (t.wires.rise, t.wires.fall)) = some (0b001, 0b100) := by decide
theorem test_edgeDetect_unused : after (exec (.edgeDetect 0b010) { State.reset with prev := 0b001 })
    (fun t => (t.wires.rise, t.wires.fall)) = some (0b010, 0b001) := by decide
theorem test_prevUpdate : after (exec (.prevUpdate 0b011) State.reset) (·.prev) = some 0b011 := by decide
-- program P5, iterations 2 and 4
theorem test_iteration_syncExit : after (exec (.iteration 0x1B) { State.reset with prev := 0b100 })
    (fun t => (t.pos, t.prev, t.kt)) = some (1, 0b011, State.reset.kt) := by decide
theorem test_iteration_capture : after (exec (.iteration 0x1B) { State.reset with pos := 1, prev := 0b010 })
    (fun t => (t.pos, t.event, t.idle, t.wr, t.rd, t.prev)) = some (2, true, false, 3, 0, 0b011) := by decide

-- section 4: single captures
theorem test_capture_keyDown : after (exec (.capture 7 true true) (scanning 7 0 0x02 0x02)) (captured 0) =
    some ⟨0x82, 0x02, true, false, [(0, 0x90), (1, 0x54), (2, 0x40)]⟩ := by decide
theorem test_capture_keyUp : after (exec (.capture 8 false true) (scanning 8 1 0x03 0x82)) (captured 1) =
    some ⟨0x00, 0x03, true, false, [(0, 0x80), (1, 0x52), (2, 0x00)]⟩ := by decide
theorem test_edgeService_first : after (exec (.edgeService true true) (scanning 1 0 0x02 0x55)) (captured 0) =
    some ⟨0x02, 0x02, false, true, []⟩ := by decide
theorem test_edgeService_pedal : after (exec (.edgeService true false) (scanning 64 8 0x00 0x00))
    (fun t => ((t.pos, t.pedalPrev), captured 8 t)) =
      some ((0, 0x00), ⟨0x01, 0x00, true, false, [(0, 0xB0), (1, 0x40), (2, 0x00)]⟩) := by decide
theorem test_capturePedal : after (exec (.capturePedal true) (withSample true true (scanning 64 8 0x00 0x80)))
    (fun t => ((t.pos, t.pedalPrev), captured 8 t)) =
      some ((0, 0x01), ⟨0x01, 0x00, true, false, [(0, 0xB0), (1, 0x40), (2, 0x7F)]⟩) := by decide
theorem test_captureFiller : after (exec (.captureFiller false 0) (withSample true true (scanning 32 4 0x00 0x80)))
    (captured 4) = some ⟨0x01, 0x00, false, true, []⟩ := by decide
theorem test_captureKeyHi : after (exec (.captureKeyHi false 2) (withSample true true (scanning 34 4 0x03 0x00)))
    (captured 4) = some ⟨0x07, 0x00, true, false, [(0, 0x90), (1, 0x5F), (2, 0x40)]⟩ := by decide
theorem test_captureKeyHi_last : after (exec (.captureKeyHi false 31) (withSample false true (scanning 63 7 0x00 0x80)))
    (captured 7) = some ⟨0x00, 0x80, true, false, [(0, 0x80), (1, 0x25), (2, 0x00)]⟩ := by decide
theorem test_captureKeyLo : after (exec (.captureKeyLo false 31) (withSample true true (scanning 31 3 0x00 0x00)))
    (captured 3) = some ⟨0x80, 0x00, true, false, [(0, 0x90), (1, 0x24), (2, 0x40)]⟩ := by decide
theorem test_captureKeyLo_unchanged :
    after (exec (.captureKeyLo false 9) (withSample true true (scanning 9 1 0x00 0x03))) (captured 1) =
      some ⟨0x02, 0x03, false, true, []⟩ := by decide
theorem test_unreachablePos : refusal (exec (.unreachablePos false 1) State.reset) = some .unreachablePos := by decide
theorem test_blockSnapshotBlock : after (exec (.blockSnapshotBlock 1) (scanning 8 1 0x05 0x00)) (captured 1) =
    some ⟨0x00, 0x05, false, false, []⟩ := by decide
theorem test_blockSnapshotFirst : after (exec .blockSnapshotFirst (scanning 1 0 0x02 0x55)) (captured 0) =
    some ⟨0x00, 0x02, false, false, []⟩ := by decide
theorem test_bitStore : after (exec (.bitStore 1 1 true) (scanning 9 1 0x00 0x00)) (fun t => ktByte t 1) =
    some 0x02 := by decide
theorem test_bitStore_or : after (exec (.bitStore 0 7 false) (scanning 7 0 0x82 0x00)) (fun t => ktByte t 0) =
    some 0x82 := by decide
-- R103: p = 3, D = 1 in a queue of CAP = 8 with COUNT = 6 (section 8)
theorem test_keyTransition_dropped :
    after (exec (.keyTransition false) (withSample true true { queued 6 0 [] with pos := 3 }))
      (fun t => (t.event, t.idle, t.wr, t.wires.signals)) =
        some (true, false, 6, [.queueFull ⟨0x90, 0x5C, 0x40⟩]) := by decide
theorem test_keyTransition : after (exec (.keyTransition false) (withSample true true (scanning 1 0 0 0)))
    (fun t => (t.event, t.idle, t.q)) = some (true, false, [(0, 0x90), (1, 0x60), (2, 0x40)]) := by decide
-- R104, section 8
theorem test_pedalSlot_dropped : after (exec (.pedalSlot false) (withSample false true (queued 6 0 [])))
    (fun t => (t.event, t.pedalPrev, t.wr, t.wires.signals)) =
      some (true, 0x01, 6, [.queueFull ⟨0xB0, 0x40, 0x7F⟩]) := by decide
theorem test_pedalSlot : after (exec (.pedalSlot false) (withSample false false { State.reset with pedalPrev := 1 }))
    (fun t => (t.event, t.pedalPrev, t.q)) = some (true, 0x00, [(0, 0xB0), (1, 0x40), (2, 0x00)]) := by decide
theorem test_idleMarkKey : after (exec (.idleMarkKey false) State.reset) (fun t => (t.event, t.idle)) =
    some (false, true) := by decide
theorem test_idleMarkFiller : after (exec (.idleMarkFiller true) State.reset) (fun t => (t.event, t.idle)) =
    some (false, true) := by decide
theorem test_validKey : after (exec (.validKey 31) State.reset) (·.wires.result) = some (.truth true) := by decide
theorem test_validKey_filler : after (exec (.validKey 32) State.reset) (·.wires.result) = some (.truth false) := by
  decide

-- section 2
theorem test_note_lo : after (exec (.note 31) State.reset) (·.wires.result) = some (.note (some 36)) := by decide
theorem test_note_hi : after (exec (.note 34) { State.reset with cfg := { Config.base with transpose := -12 } })
    (·.wires.result) = some (.note (some 83)) := by decide

-- section 6
theorem test_enqueue_wrap : after (exec (.enqueue 0x88) (queued 7 2 [])) (fun t => (t.wr, t.q, t.wires.result)) =
    some (0, [(7, 0x88)], .ok) := by decide
theorem test_enqueue_full : after (exec (.enqueue 0xAA) (queued 1 2 [])) (fun t => (t.wr, t.q, t.wires.result)) =
    some (1, [], .fail) := by decide
theorem test_dequeue_wrap : after (exec .dequeue (queued 1 7 [(7, 0x88)])) (fun t => (t.rd, t.wires.result)) =
    some (0, .byte 0x88) := by decide
theorem test_dequeue_empty : after (exec .dequeue (queued 1 1 []))
    (fun t => (t.rd, t.wires.result, t.wires.signals)) = some (1, .fail, [.queueEmpty]) := by decide
theorem test_count : after (exec .count (queued 1 6 [])) (·.wires.result) = some (.number 3) := by decide
theorem test_free : after (exec .free (queued 1 6 [])) (·.wires.result) = some (.number 4) := by decide
theorem test_full : after (exec .full (queued 5 6 [])) (·.wires.result) = some (.truth true) := by decide
theorem test_empty : after (exec .empty (queued 6 6 [])) (·.wires.result) = some (.truth true) := by decide

-- section 7
/-- A queue of three bytes at position 5 with both flags set. -/
def sending : State :=
  { State.reset with pos := 5, event := true, idle := true, wr := 3, q := [(0, 0x90), (1, 0x60), (2, 0x40)] }

theorem test_txByte : after (exec .txByte sending) (fun t => (t.rd, t.event, t.txWr, t.txData, t.txLog)) =
    some (1, true, true, 0x90, [0x90]) := by decide
theorem test_txEventClear : after (exec .txEventClear { sending with rd := 3 })
    (fun t => (t.event, t.txWr, t.txLog, t.wires.signals)) = some (false, false, [], [.queueEmpty]) := by decide
theorem test_txNotReady : after (exec (.txNotReady true) sending) (fun t => (t.event, t.rd, t.txLog)) =
    some (true, 0, []) := by decide
theorem test_txGated : after (exec (.txGated true false true true true) { sending with idle := false })
    (fun t => (t.event, t.rd, t.txLog)) = some (true, 0, []) := by decide
theorem test_txSched_sends : after (exec (.txSched true) { sending with pos := 64, rd := 1 })
    (fun t => (t.event, t.txLog)) = some (true, [0x60]) := by decide
theorem test_txSched_gated : after (exec (.txSched true) { sending with pos := 0 }) (fun t => (t.event, t.txLog)) =
    some (true, []) := by decide

-- section 2: refused configurations
theorem test_transpose_refused :
    refusal (exec .advance { State.reset with cfg := { Config.base with transpose := 32 } }) = some .badTranspose ∧
    refusal (exec .advance { State.reset with cfg := { Config.base with transpose := -37 } }) = some .badTranspose := by
  decide
theorem test_capacity_refused :
    refusal (exec .advance { State.reset with cfg := { Config.base with cap := 12 } }) = some .badCapacity ∧
    refusal (exec .advance { State.reset with cfg := { Config.base with cap := 2 } }) = some .badCapacity := by
  decide
-- the step itself: a move of the trace, and RESET in a run
theorem test_step_iteration : after (step { State.reset with trace := [.levels 0x1C, .reset] })
    (fun t => (t.pos, t.prev, t.trace)) = some (0, 0b100, [.reset]) := by decide
theorem test_step_reset : after (step { sending with trace := [.reset], txLog := [0xB0] })
    (fun t => (t.pos, t.event, t.wr, t.pedalPrev, t.txLog)) = some (0, false, 0, 0xFF, [0xB0]) := by decide
-- R70 (a): a state with POS above 64 is refused, RESET or not
theorem test_step_unreachable :
    refusal (step { State.reset with pos := 65, trace := [.reset] }) = some .unreachablePos ∧
    refusal (step { State.reset with pos := 127, trace := [.levels 0] }) = some .unreachablePos := by decide
-- the host's word as the next step's operation
theorem test_fetchWord : after (step (State.reset.withFetchWord 24 0x906040)) (fun t => (t.pos, t.q)) =
    some (2, [(0, 0x90), (1, 0x60), (2, 0x40)]) := by decide

/-! ## Witnesses: for each statement with hypotheses, values that meet them together -/

theorem test_witness_EncodedWordsDecodeBack :
    ((Instr.captureKeyHi true 31).wf = true ∧ encode (.captureKeyHi true 31) = some (.sel9, [0b10111111, 1])) ∧
    ((Instr.captureKeyHi false 2).wf = true ∧ encode (.captureKeyHi false 2) = some (.sel9, [0b10100010, 0])) ∧
    ((Instr.noteOn 127).wf = true ∧ encode (.noteOn 127) = some (.msg24, [0x90, 0x7F, 0x40])) ∧
    ((Instr.blockSnapshotBlock 8).wf = true ∧ encode (.blockSnapshotBlock 8) = some (.pos7, [64])) ∧
    ((Instr.iteration 31).wf = true ∧ encode (.iteration 31) = some (.in5, [31])) := by decide

theorem test_witness_DecodedWordsEncodeBack : decode .sel9 [0b11111111, 1] = .ok (.unreachablePos true 63) ∧
    decode .capsel3 [0] = .ok (.idleMarkFiller false) := by decide

theorem test_witness_StepRunsTheDecodedWord :
    ({ State.reset with trace := [.levels 0x1C, .reset] } : State).trace = .levels 0x1C :: [.reset] ∧
    decode .in5 [(0x1C : In5).setWidth 8] = .ok (.iteration 0x1C) := by decide

/-- The reset state is admitted: the witness of every statement whose only hypothesis is admission. -/
theorem test_witness_Admitted : Admitted State.reset :=
  ⟨by decide, by decide, by decide, by decide, by decide⟩

/-- A state in mid-pass with queued bytes is admitted. -/
theorem test_witness_Admitted_sending : Admitted sending :=
  ⟨by decide, by decide, by decide, by decide, by decide⟩

/-- A state at position 64 with a full queue of CAP = 8 is admitted. -/
theorem test_witness_Admitted_full : Admitted { queued 1 2 [] with pos := 64 } :=
  ⟨by decide, by decide, by decide, by decide, by decide⟩

-- each clause: the sync exit, the hold, the edge at 64, no edge
theorem test_witness_PositionHasTwoWrites :
    Admitted State.reset ∧ State.reset.cfg.syncExitServicesClock = false ∧
    after (exec (.iteration 0x18) { State.reset with prev := 4 }) (·.pos) = some 1 ∧
    after (exec (.iteration 0x1D) { State.reset with prev := 4 }) (·.pos) = some 0 ∧
    after (exec (.iteration 0x01) { State.reset with pos := 64 }) (·.pos) = some 0 ∧
    after (exec (.iteration 0x01) { State.reset with pos := 64, prev := 1 }) (·.pos) = some 64 :=
  ⟨test_witness_Admitted, by decide, by decide, by decide, by decide, by decide⟩

/-- An iteration of an admitted state goes on. -/
theorem iteration_next {s : State} (h : Admitted s) (w : In5) : ∃ t, exec (.iteration w) s = .next t :=
  ⟨_, proceed_of_admitted h _⟩

theorem test_witness_QuietIterationsAreThoseWithoutChange :
    (Admitted State.reset ∧ ∃ t, exec (.iteration 0x00) State.reset = .next t) ∧
    (Admitted sending ∧ ∃ t, exec (.iteration 0x10) sending = .next t) :=
  ⟨⟨test_witness_Admitted, iteration_next test_witness_Admitted _⟩,
    test_witness_Admitted_sending, iteration_next test_witness_Admitted_sending _⟩

theorem test_witness_IterationRecordsItsSample : ∃ t, exec (.iteration 0x1F) State.reset = .next t :=
  iteration_next test_witness_Admitted _

-- an iteration that raises QueueFull
theorem test_witness_IterationRaisesAtMostOneSignal :
    Admitted { queued 1 2 [] with pos := 64 } ∧
    (∃ t, exec (.iteration 0x11) { queued 1 2 [] with pos := 64 } = .next t) ∧
    after (exec (.iteration 0x11) { queued 1 2 [] with pos := 64 }) (·.wires.signals.length) = some 1 :=
  ⟨test_witness_Admitted_full, iteration_next test_witness_Admitted_full _, by decide⟩

-- the last byte of a queue leaves; the one that finds it empty ends the burst
theorem test_witness_FlagsChangeOnlyAsTheirRulesSay :
    Admitted { sending with rd := 3 } ∧ sending.cfg.syncExitServicesClock = false ∧
    (∃ t, exec (.iteration 0x10) { sending with rd := 3 } = .next t) ∧ sending.event = true ∧
    after (exec (.iteration 0x10) { sending with rd := 3 }) (·.event) = some false :=
  have h : Admitted { sending with rd := 3 } := ⟨by decide, by decide, by decide, by decide, by decide⟩
  ⟨h, by decide, iteration_next h _, by decide, by decide⟩

theorem test_witness_AtMostOneByteLeavesPerIteration : Admitted sending ∧
    (∃ t, exec (.iteration 0x10) sending = .next t) ∧
    after (exec (.iteration 0x10) sending) (fun t => (t.txWr, t.txLog)) = some (true, [0x90]) :=
  ⟨test_witness_Admitted_sending, iteration_next test_witness_Admitted_sending _, by decide⟩

theorem test_witness_ConfigurationNeverChanges : ∃ t, exec (.enqueue 0x90) State.reset = .next t :=
  ⟨_, proceed_of_admitted test_witness_Admitted _⟩

theorem test_witness_PedalLineMattersAtPosition64Only :
    State.reset.cfg.pedalSource = .pedalLine ∧ sending.pos ≠ 64 ∧
    (∃ t, exec (.iteration (BitVec.ofBool true ++ 0#1 ++ BitVec.ofBool false ++ BitVec.ofBool true ++ BitVec.ofBool true))
      sending = .next t) ∧
    (∃ u, exec (.iteration (BitVec.ofBool true ++ 1#1 ++ BitVec.ofBool false ++ BitVec.ofBool true ++ BitVec.ofBool true))
      sending = .next u) :=
  ⟨rfl, by decide, iteration_next test_witness_Admitted_sending _, iteration_next test_witness_Admitted_sending _⟩

-- both clauses
theorem test_witness_PositionMasksTheOtherLine :
    (sending.pos ≠ 0 ∧
      (∃ t, exec (.iteration (BitVec.ofBool true ++ BitVec.ofBool true ++ 0#1 ++ BitVec.ofBool true ++ BitVec.ofBool true))
        sending = .next t) ∧
      (∃ u, exec (.iteration (BitVec.ofBool true ++ BitVec.ofBool true ++ 1#1 ++ BitVec.ofBool true ++ BitVec.ofBool true))
        sending = .next u)) ∧
    (State.reset.pos = 0 ∧ State.reset.cfg.syncExitServicesClock = false ∧
      (∃ t, exec (.iteration (BitVec.ofBool true ++ BitVec.ofBool true ++ BitVec.ofBool false ++ BitVec.ofBool true ++ 0#1))
        State.reset = .next t) ∧
      (∃ u, exec (.iteration (BitVec.ofBool true ++ BitVec.ofBool true ++ BitVec.ofBool false ++ BitVec.ofBool true ++ 1#1))
        State.reset = .next u)) :=
  ⟨⟨by decide, iteration_next test_witness_Admitted_sending _, iteration_next test_witness_Admitted_sending _⟩,
    rfl, rfl, iteration_next test_witness_Admitted _, iteration_next test_witness_Admitted _⟩

theorem test_witness_ResetMoveReturnsToTheTableValues :
    Admitted { sending with trace := [.reset, .levels 3] } ∧
    ({ sending with trace := [.reset, .levels 3] } : State).trace = .reset :: [.levels 3] :=
  have h := test_witness_Admitted_sending
  ⟨h.of_eq rfl h.pos h.wr h.rd, rfl⟩

-- each way a state is ill-formed: CAP 12 and 2, T = 32 and -37, POS = 65, a cursor at CAP
theorem test_witness_IllFormedStatesAreRefused :
    ¬ Admitted { State.reset with cfg := { Config.base with cap := 12 } } ∧
    ¬ Admitted { State.reset with cfg := { Config.base with cap := 2 } } ∧
    ¬ Admitted { State.reset with cfg := { Config.base with transpose := 32 } } ∧
    ¬ Admitted { State.reset with cfg := { Config.base with transpose := -37 } } ∧
    ¬ Admitted { State.reset with pos := 65 } ∧ ¬ Admitted { State.reset with wr := 16 } ∧
    ¬ Admitted { State.reset with rd := 16 } :=
  ⟨fun h => absurd h.cap (by decide), fun h => absurd h.cap (by decide), fun h => absurd h.transpose (by decide),
    fun h => absurd h.transpose (by decide), fun h => absurd h.pos (by decide), fun h => absurd h.wr (by decide),
    fun h => absurd h.rd (by decide)⟩

-- positions 0 and 65; a filler for the key transition
theorem test_witness_CapturesOutsidePositionsAreRefused :
    ((0 : Position) = 0 ∨ 64 < (0 : Position).toNat) ∧ ((65 : Position) = 0 ∨ 64 < (65 : Position).toNat) ∧
    (State.reset.pos = 0 ∨ 64 < State.reset.pos.toNat) ∧
    validKey ({ State.reset with pos := 33 } : State).pos = false := by decide

/-- The reset state has the invariant. -/
theorem reset_stateInv : StateInv State.reset :=
  ⟨test_witness_Admitted, by decide, by decide, by decide, by decide⟩

theorem test_witness_EveryStepGoesOn : StateInv State.reset := reset_stateInv

/-- The reset state with the moves `ms` still to come. -/
def playing (ms : List Stimulus) : State := { State.reset with trace := ms }

theorem playing_stateInv (ms : List Stimulus) : StateInv (playing ms) :=
  ⟨test_witness_Admitted.of_eq rfl test_witness_Admitted.pos test_witness_Admitted.wr test_witness_Admitted.rd,
    reset_stateInv.ktUnused, reset_stateInv.pedal, reset_stateInv.memory, reset_stateInv.inRange⟩

/-- The first move of a trace is taken. -/
theorem playing_step (w : In5) (ms : List Stimulus) : ∃ t, step (playing (.levels w :: ms)) = .next t :=
  have h := (playing_stateInv (.levels w :: ms)).admitted
  ⟨_, proceed_of_admitted (h.of_eq (t := takeStimulus (playing (.levels w :: ms))) rfl h.pos h.wr h.rd) _⟩

theorem test_witness_StepKeepsTheStateInvariants :
    StateInv (playing [.levels 0x1C]) ∧ ∃ t, step (playing [.levels 0x1C]) = .next t :=
  ⟨playing_stateInv _, playing_step _ _⟩

theorem test_witness_StepKeepsEventCoveringTheQueue :
    StateInv (playing [.levels 0x1C]) ∧ (playing [.levels 0x1C]).cfg.pedalSetsEvent = true ∧
    EventCoversQueue (playing [.levels 0x1C]) ∧ ∃ t, step (playing [.levels 0x1C]) = .next t :=
  ⟨playing_stateInv _, rfl, fun _ => rfl, playing_step _ _⟩

theorem test_witness_StepKeepsLiveSlotsWritten :
    StateInv (playing [.levels 0x1C]) ∧ LiveSlotsWritten (playing [.levels 0x1C]) ∧
    ∃ t, step (playing [.levels 0x1C]) = .next t :=
  ⟨playing_stateInv _, fun _ ⟨k, hk, _⟩ => absurd hk (by
    rw [show queueCount (playing [.levels 0x1C]) = 0 by decide]
    exact Nat.not_lt_zero k), playing_step _ _⟩

theorem test_witness_StepKeepsTheStreamFramed :
    StateInv (playing [.levels 0x1C]) ∧ (playing [.levels 0x1C]).cfg.enqueueAtomic = true ∧
    (playing [.levels 0x1C]).trace = .levels 0x1C :: [] ∧ Framed (playing [.levels 0x1C]) ∧
    ∃ t, step (playing [.levels 0x1C]) = .next t :=
  ⟨playing_stateInv _, rfl, rfl, ⟨[], by simp, rfl⟩, playing_step _ _⟩

theorem test_witness_StepKeepsTheBlockClearedAhead :
    StateInv (playing [.levels 0x1C]) ∧ (playing [.levels 0x1C]).cfg.firstBlockSnapshot = true ∧
    ClearedAhead (playing [.levels 0x1C]) ∧ ∃ t, step (playing [.levels 0x1C]) = .next t :=
  ⟨playing_stateInv _, rfl, fun h => absurd rfl h, playing_step _ _⟩

/-- A state at the start of a pass. -/
def passing (ds : List Bool) : State := { State.reset with pos := 1, trace := traceBits ds true true }

theorem passing_stateInv (ds : List Bool) : StateInv (passing ds) :=
  ⟨test_witness_Admitted.of_eq rfl (show (1 : Position).toNat ≤ 64 by decide) test_witness_Admitted.wr
      test_witness_Admitted.rd,
    reset_stateInv.ktUnused, reset_stateInv.pedal, reset_stateInv.memory, reset_stateInv.inRange⟩

theorem test_witness_PassRecordsEverySampledBit :
    StateInv (passing (List.replicate 64 true)) ∧ (passing (List.replicate 64 true)).cfg.firstBlockSnapshot = true ∧
    (passing (List.replicate 64 true)).pos = 1 ∧ (List.replicate 64 true).length = 64 ∧
    (passing (List.replicate 64 true)).trace = traceBits (List.replicate 64 true) true true ++ [] :=
  ⟨passing_stateInv _, rfl, rfl, by decide, (List.append_nil _).symm⟩

-- k = 63: the comparison at position 64
theorem test_witness_PassComparesWithThePreviousPass :
    StateInv (passing (List.replicate 63 true)) ∧ (passing (List.replicate 63 true)).cfg.firstBlockSnapshot = true ∧
    (passing (List.replicate 63 true)).pos = 1 ∧ (List.replicate 63 true).length = 63 ∧ 63 < 64 ∧
    (passing (List.replicate 63 true)).trace = traceBits (List.replicate 63 true) true true ++ [] :=
  ⟨passing_stateInv _, rfl, rfl, by decide, by decide, (List.append_nil _).symm⟩

-- both clauses: the decided value, and the switch with a clock edge
theorem test_witness_SyncExitSetsPositionOne :
    (Admitted State.reset ∧ (State.reset.cfg.syncExitServicesClock = false ∨ true = false)) ∧
    (Admitted { State.reset with cfg := { Config.base with syncExitServicesClock := true } } ∧
      ({ Config.base with syncExitServicesClock := true } : Config).syncExitServicesClock = true) :=
  ⟨⟨test_witness_Admitted, .inl rfl⟩, ⟨by decide, by decide, by decide, by decide, by decide⟩, rfl⟩

theorem test_witness_EdgeServiceCapturesThenAdvances : Admitted sending ∧ sending.pos ≠ 0 :=
  ⟨test_witness_Admitted_sending, by decide⟩

-- each row at the ends of its range
theorem test_witness_CaptureRowsServiceTheirPosition :
    Admitted State.reset ∧ (Instr.capturePedal true).wf = true ∧
    ((Instr.captureFiller true 0).wf = true ∧ (32 : Position).toNat = 32 + (0 : BitVec 1).toNat) ∧
    ((Instr.captureFiller true 1).wf = true ∧ (33 : Position).toNat = 32 + (1 : BitVec 1).toNat) ∧
    ((Instr.captureKeyHi true 2).wf = true ∧ (34 : Position).toNat = 32 + (2 : BitVec 5).toNat) ∧
    ((Instr.captureKeyHi true 31).wf = true ∧ (63 : Position).toNat = 32 + (31 : BitVec 5).toNat) ∧
    ((Instr.captureKeyLo true 1).wf = true ∧ (1 : Position).toNat = (1 : BitVec 5).toNat) ∧
    ((Instr.captureKeyLo true 31).wf = true ∧ (31 : Position).toNat = (31 : BitVec 5).toNat) :=
  ⟨test_witness_Admitted, by decide, by decide, by decide, by decide, by decide, by decide, by decide⟩

theorem test_witness_SnapshotMovesAndClearsTheByte :
    Admitted State.reset ∧ (Instr.blockSnapshotFirst = .blockSnapshotBlock 0 ∨
      Instr.blockSnapshotFirst = .blockSnapshotFirst ∧ (0 : Fin 9) = 0) :=
  ⟨test_witness_Admitted, .inr ⟨rfl, rfl⟩⟩

-- positions 1 and 31 and 34 and 63 with T = 0, and the bytes a capture there meets
theorem test_witness_CaptureAtAKeyPosition :
    Admitted (scanning 1 0 0x02 0x55) ∧
    (((96 : BitVec 7).toNat : Int) = 0 + 98 - 2 * (1 : Position).toNat) ∧
    (((36 : BitVec 7).toNat : Int) = 0 + 98 - 2 * (31 : Position).toNat) ∧
    (((95 : BitVec 7).toNat : Int) = 0 + 101 - 2 * ((34 : Position).toNat - 31)) ∧
    (((37 : BitVec 7).toNat : Int) = 0 + 101 - 2 * ((63 : Position).toNat - 31)) ∧
    PreviousByte (scanning 1 0 0x02 0x55) 1 0x02 ∧ LiveByte (scanning 1 0 0x02 0x55) 1 0 ∧
    PreviousByte (scanning 31 3 0x12 0x55) 31 0x55 ∧ LiveByte (scanning 31 3 0x12 0x55) 31 0x12 :=
  have n31 : ¬ SnapshotAt (scanning 31 3 0x12 0x55).cfg 31 := by
    rintro (h | ⟨h, -⟩) <;> exact absurd h (by decide)
  ⟨⟨by decide, by decide, by decide, by decide, by decide⟩, by decide, by decide, by decide, by decide,
    ⟨fun _ => by decide, fun h => absurd (.inr ⟨rfl, rfl⟩) h⟩, ⟨fun _ => rfl, fun h => absurd (.inr ⟨rfl, rfl⟩) h⟩,
    ⟨fun h => absurd h n31, fun _ => rfl⟩, ⟨fun h => absurd h n31, fun _ => by decide⟩⟩

-- 32, where a snapshot is taken, and 33, where none is
theorem test_witness_CaptureAtAFillerPosition :
    Admitted (scanning 32 4 0x02 0x55) ∧ PreviousByte (scanning 32 4 0x02 0x55) 32 0x02 ∧
    LiveByte (scanning 32 4 0x02 0x55) 32 0 ∧ PreviousByte (scanning 33 4 0x02 0x55) 33 0x55 ∧
    LiveByte (scanning 33 4 0x02 0x55) 33 0x02 :=
  have n33 : ¬ SnapshotAt (scanning 33 4 0x02 0x55).cfg 33 := by
    rintro (h | ⟨h, -⟩) <;> exact absurd h (by decide)
  ⟨⟨by decide, by decide, by decide, by decide, by decide⟩,
    ⟨fun _ => by decide, fun h => absurd (.inl rfl) h⟩, ⟨fun _ => rfl, fun h => absurd (.inl rfl) h⟩,
    ⟨fun h => absurd h n33, fun _ => rfl⟩, ⟨fun h => absurd h n33, fun _ => by decide⟩⟩

-- the bit unchanged and changed against the byte of the previous pass
theorem test_witness_CaptureAtAKeyPosition_clauses :
    true = (0x02 : Byte).getLsbD ((1 : Position).toNat % 8) ∧ false ≠ (0x02 : Byte).getLsbD ((1 : Position).toNat % 8) := by
  decide

/-- The reset state at a position is admitted. -/
theorem reset_at_admitted (p : Position) (h : p.toNat ≤ 64) : Admitted { State.reset with pos := p } :=
  test_witness_Admitted.of_eq rfl h test_witness_Admitted.wr test_witness_Admitted.rd

-- the pedal bit changed, against the sentinel and against a level, and unchanged
theorem test_witness_CaptureAtThePedalPosition :
    (Admitted State.reset ∧ State.reset.pedalPrev ≠ bitByte true) ∧
    (Admitted { State.reset with pedalPrev := 1 } ∧ (1 : Byte) ≠ bitByte false) ∧
    (Admitted { State.reset with pedalPrev := 1 } ∧ (1 : Byte) = bitByte true) :=
  have h : Admitted { State.reset with pedalPrev := 1 } :=
    test_witness_Admitted.of_eq rfl test_witness_Admitted.pos test_witness_Admitted.wr test_witness_Admitted.rd
  ⟨⟨test_witness_Admitted, by decide⟩, ⟨h, by decide⟩, h, by decide⟩

-- both clauses, the level in the wires
theorem test_witness_PedalSlotEnqueuesOnChange :
    (Admitted (withSample true true State.reset) ∧
      (withSample true true State.reset).pedalPrev ≠ bitByte (withSample true true State.reset).wires.ped) ∧
    (Admitted (withSample true true { State.reset with pedalPrev := 1 }) ∧
      (withSample true true { State.reset with pedalPrev := 1 }).pedalPrev =
        bitByte (withSample true true { State.reset with pedalPrev := 1 }).wires.ped) :=
  ⟨⟨test_witness_Admitted.of_eq rfl test_witness_Admitted.pos test_witness_Admitted.wr test_witness_Admitted.rd,
      by decide⟩,
    test_witness_Admitted.of_eq rfl test_witness_Admitted.pos test_witness_Admitted.wr test_witness_Admitted.rd,
    by decide⟩

-- the ends of the two ranges, 1 and 31, 34 and 63
theorem test_witness_KeyTransitionSetsFlagsAndEnqueues :
    (Admitted { State.reset with pos := 1 } ∧ 1 ≤ (1 : Position).toNat ∧ (1 : Position).toNat ≤ 31 ∧
      ((96 : BitVec 7).toNat : Int) = State.reset.cfg.transpose + 98 - 2 * (1 : Position).toNat) ∧
    (Admitted { State.reset with pos := 31 } ∧ 1 ≤ (31 : Position).toNat ∧ (31 : Position).toNat ≤ 31 ∧
      ((36 : BitVec 7).toNat : Int) = State.reset.cfg.transpose + 98 - 2 * (31 : Position).toNat) ∧
    (Admitted { State.reset with pos := 34 } ∧ 34 ≤ (34 : Position).toNat ∧ (34 : Position).toNat ≤ 63 ∧
      ((95 : BitVec 7).toNat : Int) = State.reset.cfg.transpose + 101 - 2 * ((34 : Position).toNat - 31)) ∧
    (Admitted { State.reset with pos := 63 } ∧ 34 ≤ (63 : Position).toNat ∧ (63 : Position).toNat ≤ 63 ∧
      ((37 : BitVec 7).toNat : Int) = State.reset.cfg.transpose + 101 - 2 * ((63 : Position).toNat - 31)) :=
  ⟨⟨reset_at_admitted 1 (by decide), by decide⟩, ⟨reset_at_admitted 31 (by decide), by decide⟩,
    ⟨reset_at_admitted 34 (by decide), by decide⟩, reset_at_admitted 63 (by decide), by decide⟩

theorem test_witness_NotesFitTheMessage :
    (({ Config.base with transpose := 31 } : Config).transposeOk ∧ note 1 31 = some 127) ∧
    (({ Config.base with transpose := -36 } : Config).transposeOk ∧ note 31 (-36) = some 0) := by decide

theorem test_witness_NotesAreOneToOne : (note 34 0 = some 95 ∧ note 34 0 = some 95) ∧
    ((0 : Int) + 36 ≤ 36 ∧ (36 : Int) ≤ 0 + 96) ∧ ((0 : Int) + 36 ≤ 96 ∧ (96 : Int) ≤ 0 + 96) := by decide

theorem test_witness_MessageWordsAreEnqueued : Admitted State.reset ∧
    Instr.noteOn 96 = .noteOn 96 ∧ (0x60 : Byte) = (96 : BitVec 7).setWidth 8 :=
  ⟨test_witness_Admitted, rfl, by decide⟩

-- a full queue and one with room for one byte
theorem test_witness_EnqueueStoresAtTheWriteCursor :
    (Admitted (queued 1 2 []) ∧ ((queued 1 2 []).wr + 1) % (queued 1 2 []).cfg.cap = (queued 1 2 []).rd) ∧
    (Admitted (queued 0 2 []) ∧ ((queued 0 2 []).wr + 1) % (queued 0 2 []).cfg.cap ≠ (queued 0 2 []).rd) :=
  ⟨⟨⟨by decide, by decide, by decide, by decide, by decide⟩, by decide⟩,
    ⟨by decide, by decide, by decide, by decide, by decide⟩, by decide⟩

theorem test_witness_DequeueReturnsTheOldestByte :
    (Admitted State.reset ∧ State.reset.rd = State.reset.wr) ∧ (Admitted sending ∧ sending.rd ≠ sending.wr) :=
  ⟨⟨test_witness_Admitted, rfl⟩, test_witness_Admitted_sending, by decide⟩

-- as many bytes as fit
theorem test_witness_QueueIsFirstInFirstOut : Admitted (queued 5 5 []) ∧ (queued 5 5 []).rd = (queued 5 5 []).wr ∧
    ([1, 2, 3, 4, 5, 6, 7] : List Byte).length ≤ (queued 5 5 []).cfg.cap - 1 :=
  ⟨⟨by decide, by decide, by decide, by decide, by decide⟩, rfl, by decide⟩

theorem test_witness_SchedulerFollowsItsGate :
    (Admitted sending ∧ sending.event = true ∧ sending.idle = true ∧ sending.pos ≠ 0 ∧ true = true) ∧
    (Admitted State.reset ∧ ¬ (State.reset.event = true ∧ State.reset.idle = true ∧ State.reset.pos ≠ 0 ∧ true = true)) :=
  ⟨⟨test_witness_Admitted_sending, by decide⟩, test_witness_Admitted, by decide⟩

theorem test_witness_GatedAndNotReadySendNothing :
    Admitted sending ∧ (Instr.txNotReady true = .txNotReady true ∨ Instr.txNotReady true = .txGated true true true true true) :=
  ⟨test_witness_Admitted_sending, .inl rfl⟩

end Sys2Proof.Tests
end

section
/-! SUPPORT. The configuration through every named operation (spec/10_state.md R23), and the step that never
writes it. -/

namespace Sys2Proof.Machine

@[simp] theorem enqueue_cfg (v : Byte) (s : State) : (enqueue v s).cfg = s.cfg := by
  rw [(enqueue_frame v s).1]

@[simp] theorem enqueueBytes_cfg (m : Message) (s : State) : (enqueueBytes m s).cfg = s.cfg := by
  rw [enqueueBytes_frame m s]

@[simp] theorem enqueueMsg_cfg (m : Message) (s : State) : (enqueueMsg m s).cfg = s.cfg := by
  unfold enqueueMsg
  split
  · exact enqueueBytes_cfg m s
  · split
    · exact raise_cfg _ s
    · rw [raise_cfg, enqueueBytes_cfg]

@[simp] theorem dequeue_cfg (s : State) : (dequeue s).cfg = s.cfg := by
  unfold dequeue
  split <;> rfl

@[simp] theorem flagPedal_cfg (s : State) : (flagPedal s).cfg = s.cfg := by
  rw [flagPedal_spec]

@[simp] theorem keyTransition_cfg (p : Position) (d : Bool) (s : State) : (keyTransition p d s).cfg = s.cfg := by
  unfold keyTransition
  split
  · exact enqueueMsg_cfg _ _
  · rfl

@[simp] theorem pedalSlot_cfg (ped : Bool) (s : State) : (pedalSlot ped s).cfg = s.cfg := by
  unfold pedalSlot
  split <;> simp

@[simp] theorem bitStore_cfg (b i : Nat) (d : Bool) (s : State) : (bitStore b i d s).cfg = s.cfg := rfl

@[simp] theorem captureSnapshot_cfg (p : Position) (s : State) : (captureSnapshot p s).cfg = s.cfg := by
  unfold captureSnapshot
  split
  · rfl
  · split <;> rfl
  · rfl

@[simp] theorem captureArm_cfg (p : Position) (d ped : Bool) (s : State) : (captureArm p d ped s).cfg = s.cfg := by
  rw [captureArm_eq]
  split
  · exact keyTransition_cfg p d s
  · split
    · exact pedalSlot_cfg ped s
    · rfl

@[simp] theorem capture_cfg (p : Position) (d ped : Bool) (s : State) : (capture p d ped s).cfg = s.cfg := by
  simp [capture]

@[simp] theorem serviceAt_cfg (p : Position) (d ped : Bool) (s : State) : (serviceAt p d ped s).cfg = s.cfg :=
  capture_cfg p d ped s

@[simp] theorem syncExit_cfg (r d ped : Bool) (s : State) : (syncExit r d ped s).cfg = s.cfg := by
  unfold syncExit
  split <;> simp

@[simp] theorem sampledPart_cfg (w : In5) (s : State) : (sampledPart w s).cfg = s.cfg := by
  unfold sampledPart
  split
  · split
    · exact syncExit_cfg _ _ _ _
    · rfl
  · split
    · exact serviceAt_cfg _ _ _ _
    · rfl

@[simp] theorem txSched_cfg (r : Bool) (s : State) : (txSched r s).cfg = s.cfg := by
  rw [txSched_frame]

/-- The select rows behind UNREACHABLE_POS need POS at most 64, which `proceed` has checked before. -/
theorem iteration_cfg (w : In5) {s : State} (h : Admitted s) : (iteration w s).cfg = s.cfg := by
  rw [iteration_eq w s h.pos, txSched_cfg]
  exact sampledPart_cfg w s

theorem proceed_cfg {s t u : State} (h : proceed s t = .next u) (ht : t.cfg = s.cfg) : u.cfg = s.cfg := by
  obtain ⟨-, rfl⟩ := proceed_eq_next h
  exact ht

/-- A guarded operation answers a next state only where its guard lets `proceed` run. -/
theorem guarded_eq_next {c : Prop} [Decidable c] {r : Refusal} {s t u : State}
    (h : (if c then proceed s t else .refused r) = .next u) : c ∧ proceed s t = .next u := by
  split at h
  · exact ⟨‹c›, h⟩
  · cases h

theorem serviceOutcome_cfg {p : Position} {d ped : Bool} {s u : State} (h : serviceOutcome p d ped s = .next u) :
    u.cfg = s.cfg :=
  proceed_cfg (guarded_eq_next h).2 (serviceAt_cfg p d ped s)

/-- Settles O13, operation by operation: each is `proceed` to a state with the same configuration. -/
theorem configurationNeverChanges : Obligations.ConfigurationNeverChanges := by
  intro i s t h
  cases i with
  | noteOn _ | noteOff _ | ccDamperReleased | ccDamperPressed | enqueueMsg _ _ _ =>
    exact proceed_cfg h (enqueueMsg_cfg _ s)
  | syncExit r => exact proceed_cfg h (syncExit_cfg r _ _ s)
  | capturePedal _ => exact serviceOutcome_cfg (p := pedalPosition) h
  | captureFiller _ _ | captureKeyHi _ _ | captureKeyLo _ _ | edgeService _ _ =>
    exact serviceOutcome_cfg h
  | unreachablePos _ _ => cases h
  | keyTransition _ => exact proceed_cfg (guarded_eq_next h).2 (keyTransition_cfg s.pos _ s)
  | pedalSlot _ => exact proceed_cfg h (pedalSlot_cfg _ s)
  | capture p d ped => exact proceed_cfg (guarded_eq_next h).2 (capture_cfg p d ped s)
  | txSched r => exact proceed_cfg h (txSched_cfg r s)
  | iteration w =>
    obtain ⟨ha, rfl⟩ := exec_iteration_eq_next h
    exact iteration_cfg w ha
  | enqueue v => exact proceed_cfg h (enqueue_cfg v s)
  | dequeue => exact proceed_cfg h (dequeue_cfg s)
  -- the rows that write one register, the port or the wires, and those that write nothing
  | blockSnapshotBlock _ | blockSnapshotFirst | bitStore _ _ _ | idleMarkKey _ | idleMarkFiller _ | advance
  | prevUpdate _ | sample _ | edgeDetect _ | txByte | txEventClear | txNotReady _ | txGated _ _ _ _ _
  | note _ | msgNoteOn _ | msgNoteOff _ | msgCcDamper _ | validKey _ | count | free | full | empty
  | syncHold _ | noEdge _ _ =>
    exact proceed_cfg h rfl

end Sys2Proof.Machine
end

section
/-! SUPPORT. An induction over the parts of a step, once: what a capture, a scheduler run and RESET keep, and what does
not depend on POS, PREV, the wires and the move, every step keeps. -/

namespace Sys2Proof.Machine

/-- The parts of an iteration on the configuration `c` keep `P`. The fields that SAMPLE, EDGE_DETECT, SYNC_EXIT,
ADVANCE, PREV_UPDATE and the taking of a move write are no part of it. -/
structure PartsKeep (c : Config) (P : State → Prop) : Prop where
  frame : ∀ (s : State) (pos : Position) (prev : Lines) (wires : Wires) (trace : List Stimulus) (tick : Nat),
    P s → P { s with pos := pos, prev := prev, wires := wires, trace := trace, tick := tick }
  onCapture : ∀ (s : State) (p : Position) (d ped : Bool),
    s.cfg = c → Admitted s → isPosition p → P s → P (capture p d ped s)
  onTxSched : ∀ (s : State) (r : Bool), s.cfg = c → Admitted s → P s → P (txSched r s)

section
variable {c : Config} {P : State → Prop}

theorem PartsKeep.onServiceAt (k : PartsKeep c P) {s : State} (p : Position) (d ped : Bool) (hc : s.cfg = c)
    (ha : Admitted s) (hp : isPosition p) (h : P s) : P (serviceAt p d ped s) :=
  k.frame _ _ _ _ _ _ (k.onCapture s p d ped hc ha hp h)

theorem PartsKeep.onSampledPart (k : PartsKeep c P) {s : State} (w : In5) (hc : s.cfg = c) (ha : Admitted s) (h : P s) :
    P (sampledPart w s) := by
  have hs : P (sampled w s) := k.frame s _ _ _ _ _ h
  have hsa := sampled_admitted w s ha
  unfold sampledPart
  split
  · split
    · have h1 : P (setPos 1 (sampled w s)) := k.frame (sampled w s) _ _ _ _ _ hs
      unfold syncExit
      split
      · exact k.onServiceAt 1 _ _ hc (hsa.of_eq rfl (by simp) hsa.wr hsa.rd) (by decide) h1
      · exact h1
    · exact hs
  · rename_i h0
    split
    · exact k.onServiceAt s.pos _ _ hc hsa (isPosition_of_ne ha.pos h0) hs
    · exact hs

theorem PartsKeep.onIteration (k : PartsKeep c P) {s : State} (w : In5) (hc : s.cfg = c) (ha : Admitted s) (h : P s) :
    P (iteration w s) := by
  rw [iteration_eq w s ha.pos]
  have hsa := sampledPart_admitted w s ha
  exact k.onTxSched _ _ ((sampledPart_cfg w s).trans hc) (hsa.of_eq rfl hsa.pos hsa.wr hsa.rd)
    (k.frame _ _ _ _ _ _ (k.onSampledPart w hc ha h))

theorem takeStimulus_admitted {s : State} (h : Admitted s) : Admitted (takeStimulus s) :=
  h.of_eq rfl h.pos h.wr h.rd

theorem PartsKeep.onStep {s t : State} (k : PartsKeep s.cfg P) (hr : ∀ u : State, P (resetBlock u)) (h : P s)
    (ht : step s = .next t) : P t := by
  obtain ⟨w, -, ha, rfl⟩ | ⟨-, -, rfl⟩ := step_cases ht
  · exact k.onIteration w rfl (takeStimulus_admitted ha) (k.frame s _ _ _ _ _ h)
  · exact hr _

end

/-- Everything TX_EVENT_CLEAR does, as one record update. -/
theorem txEventClear_eq (s : State) : txEventClear s = { s with
    event := false, txData := Config.freeTxData s.tick, txWr := false, wires := (raise .queueEmpty s).wires } := rfl

theorem resetBlock_admitted {s : State} (h : Admitted s) : Admitted (resetBlock s) :=
  h.of_eq rfl (by simp [resetBlock]) h.cap_pos h.cap_pos

theorem step_admitted {s t : State} (h : step s = .next t) : Admitted t := by
  obtain ⟨w, -, ha, rfl⟩ | ⟨-, ha, rfl⟩ := step_cases h
  · exact iteration_admitted w _ (takeStimulus_admitted ha)
  · exact resetBlock_admitted (takeStimulus_admitted ha)

/-- What every capture at `p` leaves, without naming the bytes of the previous pass. -/
theorem capture_captured {s : State} (p : Position) (d ped : Bool) (h : Admitted s) (hp : isPosition p) :
    ∃ old live, LiveByte s p live ∧ Captured p d ped old live s (capture p d ped s) := by
  obtain ⟨old, ho⟩ := previousByte_exists s p
  obtain ⟨live, hl⟩ := liveByte_exists s p
  exact ⟨old, live, hl, capture_spec p d ped s old live h hp ho hl⟩

end Sys2Proof.Machine
end

section
/-! SUPPORT. What depends on the queue alone: the parts of a step reach the queue only through ENQUEUE and the
scheduler's advance of RD (spec/10_state.md R22, R26). -/

namespace Sys2Proof.Machine

theorem SameQueue.refl {s : State} : SameQueue s s := ⟨rfl, rfl, rfl⟩

/-- `P` speaks of the queue alone, and the two operations of the queue keep it. -/
structure QueueKeeps (P : State → Prop) : Prop where
  frame : ∀ {s t : State}, SameQueue s t → t.cfg = s.cfg → P s → P t
  onEnqueue : ∀ (v : Byte) {s : State}, Admitted s → P s → P (enqueue v s)
  onDequeue : ∀ {s : State}, Admitted s → s.rd ≠ s.wr → P s → P (dequeue s)

section
variable {P : State → Prop}

theorem QueueKeeps.onEnqueueBytes (k : QueueKeeps P) (m : Message) {s : State} (ha : Admitted s) (h : P s) :
    P (enqueueBytes m s) := by
  obtain ⟨-, -, -, ha1⟩ := enqueue_take m.status s ha
  obtain ⟨-, -, -, ha2⟩ := enqueue_take m.data1 _ ha1
  exact k.onEnqueue _ ha2 (k.onEnqueue _ ha1 (k.onEnqueue _ ha h))

theorem QueueKeeps.onEnqueueMsg (k : QueueKeeps P) (m : Message) {s : State} (ha : Admitted s) (h : P s) :
    P (enqueueMsg m s) := by
  have hb := k.onEnqueueBytes m ha h
  unfold enqueueMsg
  split
  · exact hb
  · split
    · exact k.frame (by simp [SameQueue]) (raise_cfg _ _) h
    · exact k.frame (by simp [SameQueue]) (raise_cfg _ _) hb

theorem QueueKeeps.onCaptureArm (k : QueueKeeps P) (p : Position) (d ped : Bool) {s : State} (ha : Admitted s)
    (h : P s) : P (captureArm p d ped s) := by
  rw [captureArm_eq]
  split
  · have hf : P (flagTransition s) := k.frame (s := s) SameQueue.refl rfl h
    unfold keyTransition
    split
    · exact k.onEnqueueMsg _ (ha.of_eq rfl ha.pos ha.wr ha.rd) hf
    · exact hf
  · split
    · have hq : SameQueue s (flagPedal s) := by simp [flagPedal_spec, SameQueue]
      have hpa : Admitted (flagPedal s) := by
        rw [flagPedal_spec]
        exact ha.of_eq rfl ha.pos ha.wr ha.rd
      unfold pedalSlot
      split
      · exact k.frame (s := s) SameQueue.refl rfl h
      · exact k.frame (s := enqueueMsg _ (flagPedal s)) SameQueue.refl rfl
          (k.onEnqueueMsg _ hpa (k.frame hq (flagPedal_cfg s) h))
    · exact k.frame (s := s) SameQueue.refl rfl h

theorem QueueKeeps.onCapture (k : QueueKeeps P) (p : Position) (d ped : Bool) {s : State} (ha : Admitted s)
    (hp : isPosition p) (h : P s) : P (capture p d ped s) := by
  obtain ⟨old, ho⟩ := previousByte_exists s p
  obtain ⟨live, hl⟩ := liveByte_exists s p
  obtain ⟨-, -, -, hu⟩ := captureStored_spec p d s old live hp ho hl
  unfold capture
  rw [hu]
  exact k.onCaptureArm p d ped (ha.of_eq rfl ha.pos ha.wr ha.rd) (k.frame (s := s) SameQueue.refl rfl h)

theorem QueueKeeps.onTxSched (k : QueueKeeps P) (r : Bool) {s : State} (ha : Admitted s) (h : P s) :
    P (txSched r s) := by
  rw [txSched_eq]
  split
  · split
    · rw [txEventClear_eq]
      exact k.frame (s := s) SameQueue.refl rfl h
    · rename_i hne
      obtain ⟨hd, -, -⟩ := dequeue_of_nonempty s ha hne
      refine k.frame (s := dequeue s) ?_ ?_ (k.onDequeue ha hne h) <;> rw [hd]
      · exact SameQueue.refl
      · rfl
  · exact k.frame (s := s) SameQueue.refl rfl h

theorem QueueKeeps.parts (k : QueueKeeps P) (c : Config) : PartsKeep c P where
  frame s _ _ _ _ _ h := k.frame (s := s) SameQueue.refl rfl h
  onCapture _ p d ped _ ha hp h := k.onCapture p d ped ha hp h
  onTxSched _ r _ ha h := k.onTxSched r ha h

end

end Sys2Proof.Machine
end

section
/-! SUPPORT. The invariants of spec/10_state.md R31 (a) to (e): the queue buffer, the key table and the pedal register,
each kept by the parts of a step. -/

namespace Sys2Proof.Machine

/-- The queue buffer in canonical form, with every address below CAP. -/
def MemoryFits (s : State) : Prop := Memory.wf s.q ∧ ∀ c ∈ s.q, c.1 < s.cfg.cap

theorem enqueue_memoryFits (v : Byte) {s : State} (ha : Admitted s) (h : MemoryFits s) : MemoryFits (enqueue v s) := by
  obtain ⟨hwf, hlt⟩ := h
  unfold enqueue
  split
  · exact ⟨hwf, hlt⟩
  · refine ⟨memWrite_wf s.wr v s hwf, fun c hc => ?_⟩
    rcases Memory.mem_write s.q s.wr v c hc with rfl | hc
    · exact ha.wr
    · exact hlt c hc

theorem memoryFits_kept : QueueKeeps MemoryFits where
  frame {s t} hq hc h := by
    obtain ⟨-, -, hq⟩ := hq
    unfold MemoryFits
    rw [hq, hc]
    exact h
  onEnqueue v _ ha h := enqueue_memoryFits v ha h
  onDequeue {s} ha hne h := by
    rw [(dequeue_of_nonempty s ha hne).1]
    exact h

/-- R31 (b): the bits of the key table that no position has are 0. -/
def UnusedBitsClear (s : State) : Prop := (ktByte s 0).getLsbD 0 = false ∧ ktByte s 8 &&& 0xFE = 0

theorem LiveByte.eq_zero_or {s : State} {p : Position} {v : Byte} (h : LiveByte s p v) :
    v = 0 ∨ v = ktByte s (blockOf p) :=
  (em (SnapshotAt s.cfg p)).imp h.1 h.2

/-- In block 0 a capture stores into the bits 1..7. -/
theorem storedBit_block_zero : ∀ (d : Bool) (p : Position), isPosition p → blockOf p = 0 →
    (bitByte d <<< bitOf p).getLsbD 0 = false := by
  decide

/-- In block 8 a capture stores into bit 0. -/
theorem storedBit_block_eight : ∀ (d : Bool) (p : Position), isPosition p → blockOf p = 8 →
    bitByte d <<< bitOf p &&& 0xFE = 0 := by
  decide

theorem capture_unusedBitsClear {s : State} (p : Position) (d ped : Bool) (ha : Admitted s) (hp : isPosition p)
    (h : UnusedBitsClear s) : UnusedBitsClear (capture p d ped s) := by
  obtain ⟨old, live, hl, hcap⟩ := capture_captured p d ped ha hp
  obtain ⟨h0, h8⟩ := h
  constructor
  · by_cases hb : blockOf p = 0
    · have hlive : live.getLsbD 0 = false := by
        rcases hl.eq_zero_or with rfl | rfl
        · rfl
        · rwa [hb]
      have hs := hcap.stored
      rw [hb] at hs
      rw [hs, BitVec.getLsbD_or, hlive, storedBit_block_zero d p hp hb]
      rfl
    · rwa [hcap.others 0 (Ne.symm hb)]
  · by_cases hb : blockOf p = 8
    · have hlive : live &&& 0xFE = 0 := by
        rcases hl.eq_zero_or with rfl | rfl
        · rfl
        · rwa [hb]
      have hs := hcap.stored
      rw [hb] at hs
      rw [hs, BitVec.and_comm, BitVec.and_or_distrib_left, BitVec.and_comm _ live, hlive, BitVec.and_comm,
        storedBit_block_eight d p hp hb]
      rfl
    · rwa [hcap.others 8 (Ne.symm hb)]

theorem txSched_kt (r : Bool) (s : State) : (txSched r s).kt = s.kt := by rw [txSched_frame]

theorem unusedBitsClear_kept (c : Config) : PartsKeep c UnusedBitsClear where
  frame _ _ _ _ _ _ h := h
  onCapture _ p d ped _ ha hp h := capture_unusedBitsClear p d ped ha hp h
  onTxSched s r _ _ h := by
    unfold UnusedBitsClear ktByte
    rw [txSched_kt]
    exact h

/-- R31 (c): PEDAL_PREV holds the sentinel or one bit. -/
def PedalFits (s : State) : Prop := s.pedalPrev = 0xFF ∨ s.pedalPrev = 0x00 ∨ s.pedalPrev = 0x01

theorem pedalFits_of_bit {s : State} {b : Bool} (h : s.pedalPrev = bitByte b) : PedalFits s := by
  cases b
  · exact .inr (.inl h)
  · exact .inr (.inr h)

theorem pedalFits_of_eq {s t : State} (h : PedalFits s) (e : t.pedalPrev = s.pedalPrev) : PedalFits t := by
  unfold PedalFits
  rwa [e]

theorem capture_pedalFits {s : State} (p : Position) (d ped : Bool) (ha : Admitted s) (hp : isPosition p)
    (h : PedalFits s) : PedalFits (capture p d ped s) := by
  obtain ⟨_, _, -, hcap⟩ := capture_captured p d ped ha hp
  rcases hcap.arms with ⟨-, -, _, -, -, e⟩ | ⟨-, hped, -⟩ | ⟨-, -, e⟩
  · exact pedalFits_of_eq h (by rw [e])
  · exact pedalFits_of_bit hped
  · exact pedalFits_of_eq h (by rw [e])

theorem pedalFits_kept (c : Config) : PartsKeep c PedalFits where
  frame _ _ _ _ _ _ h := h
  onCapture _ p d ped _ ha hp h := capture_pedalFits p d ped ha hp h
  onTxSched s r _ _ h := pedalFits_of_eq h (by rw [txSched_frame])

theorem resetBlock_pedalFits (s : State) : PedalFits (resetBlock s) := by
  show resetPedal s.cfg = 0xFF ∨ resetPedal s.cfg = 0x00 ∨ resetPedal s.cfg = 0x01
  unfold resetPedal
  split
  · exact .inl rfl
  · exact .inr (.inr rfl)

theorem cleared_unusedBits {s : State} (h : s.kt = Vector.replicate 9 0) : UnusedBitsClear s := by
  unfold UnusedBitsClear ktByte
  rw [h]
  decide

theorem resetBlock_memoryFits (s : State) : MemoryFits (resetBlock s) :=
  ⟨resetBlock_wf s, fun _ hc => absurd hc List.not_mem_nil⟩

/-- Settles O23: the parts of the invariant are kept one by one. -/
theorem stepKeepsTheStateInvariants : Obligations.StepKeepsTheStateInvariants := by
  intro s t h ht
  obtain ⟨hwf, hlt⟩ := (memoryFits_kept.parts s.cfg).onStep resetBlock_memoryFits ⟨h.memory, h.inRange⟩ ht
  exact ⟨step_admitted ht, (unusedBitsClear_kept s.cfg).onStep (fun _ => cleared_unusedBits rfl) h.ktUnused ht,
    (pedalFits_kept s.cfg).onStep resetBlock_pedalFits h.pedal ht, hwf, hlt⟩

end Sys2Proof.Machine
end

section
/-! SUPPORT. EVENT covers the queue (spec/10_state.md R31 (g)). -/

namespace Sys2Proof.Machine

theorem capture_eventCoversQueue {s : State} (p : Position) (d ped : Bool) (hset : s.cfg.pedalSetsEvent = true)
    (ha : Admitted s) (hp : isPosition p) (h : EventCoversQueue s) : EventCoversQueue (capture p d ped s) := by
  obtain ⟨_, _, -, hcap⟩ := capture_captured p d ped ha hp
  rcases hcap.arms with ⟨-, -, _, -, -, e⟩ | ⟨-, -, (⟨-, e⟩ | ⟨-, -, e⟩)⟩ | ⟨-, -, e⟩ <;> rw [e]
  · nofun
  · exact h
  · intro hev
    simp [hset] at hev
  · exact h

theorem txSched_eventCoversQueue (r : Bool) {s : State} (h : EventCoversQueue s) :
    EventCoversQueue (txSched r s) := by
  rw [txSched_eq]
  split
  · rename_i hg
    split
    · rename_i hempty
      rw [txEventClear_eq]
      exact fun _ => hempty
    · have hev : s.event = true := ((gateOpen_iff s).1 hg.1).1
      intro hno
      simp [txByte, hev] at hno
  · exact h

theorem eventCoversQueue_kept {c : Config} (hset : c.pedalSetsEvent = true) : PartsKeep c EventCoversQueue where
  frame _ _ _ _ _ _ h := h
  onCapture _ p d ped hc ha hp h := capture_eventCoversQueue p d ped (hc ▸ hset) ha hp h
  onTxSched _ r _ _ h := txSched_eventCoversQueue r h

/-- Settles O24: what enqueues sets EVENT, and the scheduler clears it on an empty queue only. -/
theorem stepKeepsEventCoveringTheQueue : Obligations.StepKeepsEventCoveringTheQueue := by
  intro s t _ hset h ht
  exact (eventCoversQueue_kept hset).onStep (fun _ _ => rfl) h ht

end Sys2Proof.Machine
end

section
/-! SUPPORT. Every live slot has been written (spec/10_state.md R27). -/

namespace Sys2Proof.Machine

theorem enqueue_liveSlotsWritten (v : Byte) {s : State} (ha : Admitted s) (h : LiveSlotsWritten s) :
    LiveSlotsWritten (enqueue v s) := by
  rcases Nat.eq_zero_or_pos (queueFree s) with hf | hf
  · rwa [enqueue_of_full v s ha hf]
  · obtain ⟨he, hcount, -⟩ := enqueue_of_room v s ha hf
    have hq : (enqueue v s).q = Memory.write s.q s.wr v := by rw [he]; rfl
    have hrd : (enqueue v s).rd = s.rd := by rw [he]; rfl
    rintro a ⟨k, hk, rfl⟩
    rw [hcount] at hk
    rw [hq, hrd, enqueue_cfg, Memory.read_write]
    split
    · rfl
    · rename_i hne
      refine h _ ⟨k, ?_, rfl⟩
      have : k ≠ queueCount s := fun e => hne (e ▸ (queueCount_spec s ha).2)
      omega

theorem dequeue_liveSlotsWritten {s : State} (ha : Admitted s) (hne : s.rd ≠ s.wr) (h : LiveSlotsWritten s) :
    LiveSlotsWritten (dequeue s) := by
  obtain ⟨hd, hlive, -⟩ := dequeue_of_nonempty s ha hne
  have hcount : queueCount s = queueCount (dequeue s) + 1 := by
    rw [← liveBytes_length, ← liveBytes_length, hlive, List.length_cons]
  rintro a ⟨k, hk, rfl⟩
  have hslot : ((dequeue s).rd + k) % (dequeue s).cfg.cap = (s.rd + (k + 1)) % s.cfg.cap := by
    rw [hd]
    show ((s.rd + 1) % s.cfg.cap + k) % s.cfg.cap = _
    rw [Nat.mod_add_mod, Nat.add_assoc, Nat.add_comm 1 k]
  have hq : (dequeue s).q = s.q := by rw [hd]; rfl
  rw [hslot, hq]
  exact h _ ⟨k + 1, by omega, rfl⟩

theorem liveSlotsWritten_kept : QueueKeeps LiveSlotsWritten where
  frame {s t} hq hc h := by
    obtain ⟨hw, hr, hq⟩ := hq
    unfold LiveSlotsWritten liveSlot queueCount
    rw [hw, hr, hq, hc]
    exact h
  onEnqueue v _ ha h := enqueue_liveSlotsWritten v ha h
  onDequeue ha hne h := dequeue_liveSlotsWritten ha hne h

/-- With both cursors at 0 no slot is live. -/
theorem liveSlotsWritten_of_zero {s : State} (hw : s.wr = 0) (hr : s.rd = 0) : LiveSlotsWritten s := by
  rintro a ⟨k, hk, -⟩
  simp [queueCount, hw, hr] at hk

/-- Settles O25. -/
theorem stepKeepsLiveSlotsWritten : Obligations.StepKeepsLiveSlotsWritten := by
  intro s t _ h ht
  exact (liveSlotsWritten_kept.parts s.cfg).onStep (fun _ => liveSlotsWritten_of_zero rfl rfl) h ht

end Sys2Proof.Machine
end

section
/-! SUPPORT. The output stream is a concatenation of whole messages (spec/10_state.md R31 (f)). -/

namespace Sys2Proof.Machine

/-- R130 builds the word of R62. -/
theorem isMessage_msgNoteOn (n : BitVec 7) : IsMessage (msgNoteOn n) :=
  ⟨.noteOn n, by revert n; decide⟩

/-- R131 builds the word of R63. -/
theorem isMessage_msgNoteOff (n : BitVec 7) : IsMessage (msgNoteOff n) :=
  ⟨.noteOff n, by revert n; decide⟩

/-- R132 builds the words of R64. -/
theorem isMessage_msgCcDamper (ped : Bool) : IsMessage (msgCcDamper ped) := by
  cases ped
  · exact ⟨.ccDamperPressed, by decide⟩
  · exact ⟨.ccDamperReleased, by decide⟩

theorem Framed.of_eq {s t : State} (h : Framed s) (hlog : t.txLog = s.txLog) (hlive : liveBytes t = liveBytes s) :
    Framed t := by
  unfold Framed
  rwa [hlog, hlive]

/-- A message offered to the queue is appended whole or not at all. -/
theorem Framed.offered {m : Message} {s t : State} (h : Framed s) (hat : s.cfg.enqueueAtomic = true)
    (hm : IsMessage m) (ho : Offered m s t) (hlog : t.txLog = s.txLog) (hc : t.cfg = s.cfg) : Framed t := by
  rcases Nat.lt_or_ge (queueFree s) 3 with hlt | hge
  · obtain ⟨⟨hw, hr, hq⟩, -⟩ := ho.dropped hlt hat
    exact h.of_eq hlog (liveBytes_congr hw hr hq (by rw [hc]))
  · obtain ⟨-, hlive, -⟩ := ho.room hge
    obtain ⟨ms, hms, hbytes⟩ := h
    refine ⟨ms ++ [m], fun x hx => ?_, ?_⟩
    · rcases List.mem_append.1 hx with hx | hx
      · exact hms x hx
      · exact List.mem_singleton.1 hx ▸ hm
    · rw [hlog, hlive, ← List.append_assoc, hbytes, List.flatMap_append, List.flatMap_singleton]

theorem capture_framed {s : State} (p : Position) (d ped : Bool) (hat : s.cfg.enqueueAtomic = true) (ha : Admitted s)
    (hp : isPosition p) (h : Framed s) : Framed (capture p d ped s) := by
  obtain ⟨_, _, -, hcap⟩ := capture_captured p d ped ha hp
  have hlog : (capture p d ped s).txLog = s.txLog := by rw [hcap.frame]
  have hc := capture_cfg p d ped s
  rcases hcap.arms with ⟨-, -, n, -, ho, -⟩ | ⟨-, -, (⟨-, e⟩ | ⟨-, ho, -⟩)⟩ | ⟨-, -, e⟩
  · refine h.offered hat ?_ ho hlog hc
    cases d
    · exact isMessage_msgNoteOff n
    · exact isMessage_msgNoteOn n
  · exact h.of_eq hlog (by rw [e]; rfl)
  · exact h.offered hat (isMessage_msgCcDamper ped) ho hlog hc
  · exact h.of_eq hlog (by rw [e]; rfl)

/-- A byte handed over moves from the head of the queue to the end of TXLOG. -/
theorem txByte_stream {s : State} (ha : Admitted s) (hne : s.rd ≠ s.wr) :
    (txByte s).txLog ++ liveBytes (txByte s) = s.txLog ++ liveBytes s := by
  obtain ⟨hd, hlive, -⟩ := dequeue_of_nonempty s ha hne
  have hrest : liveBytes (txByte s) = liveBytes (dequeue s) := by rw [hd]; rfl
  have hlog : (txByte s).txLog = s.txLog ++ [memRead s s.rd] := rfl
  rw [hrest, hlog, hlive, List.append_assoc, List.singleton_append]

theorem txSched_framed (r : Bool) {s : State} (ha : Admitted s) (h : Framed s) : Framed (txSched r s) := by
  rw [txSched_eq]
  split
  · split
    · rw [txEventClear_eq]
      exact h
    · rename_i hne
      unfold Framed
      rwa [txByte_stream ha hne]
  · exact h

theorem framed_kept {c : Config} (hat : c.enqueueAtomic = true) : PartsKeep c Framed where
  frame _ _ _ _ _ _ h := h
  onCapture _ p d ped hc ha hp h := capture_framed p d ped (hc ▸ hat) ha hp h
  onTxSched _ r _ ha h := txSched_framed r ha h

/-- Settles O26. -/
theorem stepKeepsTheStreamFramed : Obligations.StepKeepsTheStreamFramed := by
  intro s t w rest _ hat htrace h ht
  have hnext : nextStimulus s = .levels w := by simp [nextStimulus, htrace]
  obtain ⟨w', -, ha, rfl⟩ | ⟨hreset, -⟩ := step_cases ht
  · exact (framed_kept hat).onIteration w' (s := takeStimulus s) rfl (takeStimulus_admitted ha) h
  · simp [hnext] at hreset

end Sys2Proof.Machine
end

section
/-! SUPPORT. What the sampler part of an iteration does to POS and the flags, by the position it starts from
(spec/10_state.md R17, R20, R21). -/

namespace Sys2Proof.Machine

/-- At POS 0 only the sync line is looked at, by the decided value of SYNC_EXIT_SERVICES_CLOCK. -/
theorem sampledPart_of_zero (w : In5) {s : State} (h0 : s.pos = 0) (hx : s.cfg.syncExitServicesClock = false) :
    sampledPart w s =
      if (s.prev.getLsbD 2 && !w.getLsbD 2) = true then setPos 1 (sampled w s) else sampled w s := by
  have hsw : (sampled w s).cfg.syncExitServicesClock = false := hx
  simp [sampledPart, syncExit, h0, hsw]

/-- At every other position only the clock line is looked at. -/
theorem sampledPart_of_ne_zero (w : In5) {s : State} (h0 : s.pos ≠ 0) :
    sampledPart w s =
      if (w.getLsbD 0 && !s.prev.getLsbD 0) = true then
        serviceAt s.pos (inData w) (pedalBit s.cfg w) (sampled w s)
      else sampled w s := if_neg h0

/-- A capture leaves POS to ADVANCE. -/
theorem serviceAt_pos {s : State} (p : Position) (d ped : Bool) (ha : Admitted s) (hp : isPosition p) :
    (serviceAt p d ped s).pos = BitVec.ofNat 7 ((s.pos.toNat + 1) % 65) := by
  obtain ⟨_, _, -, hcap⟩ := capture_captured p d ped ha hp
  have hpos : (capture p d ped s).pos = s.pos := by rw [hcap.frame]
  show BitVec.ofNat 7 (((capture p d ped s).pos.toNat + 1) % 65) = _
  rw [hpos]

/-- The capture at 64 leaves IDLE alone. -/
theorem serviceAt_pedal_idle {s : State} (d ped : Bool) (ha : Admitted s) : (serviceAt 64 d ped s).idle = s.idle := by
  obtain ⟨_, _, -, hcap⟩ := capture_captured 64 d ped ha (by decide)
  show (capture 64 d ped s).idle = s.idle
  rcases hcap.arms with ⟨hv, -⟩ | ⟨-, -, (⟨-, e⟩ | ⟨-, -, e⟩)⟩ | ⟨hne, -⟩
  · exact absurd hv (by decide)
  · rw [e]
  · rw [e]
  · exact absurd rfl hne

/-- No capture clears EVENT. -/
theorem serviceAt_event {s : State} (p : Position) (d ped : Bool) (ha : Admitted s) (hp : isPosition p)
    (h : s.event = true) : (serviceAt p d ped s).event = true := by
  obtain ⟨_, _, -, hcap⟩ := capture_captured p d ped ha hp
  show (capture p d ped s).event = true
  rcases hcap.arms with ⟨-, -, _, -, -, e⟩ | ⟨-, -, (⟨-, e⟩ | ⟨-, -, e⟩)⟩ | ⟨-, -, e⟩ <;> rw [e]
  · exact h
  · show (s.cfg.pedalSetsEvent || s.event) = true
    rw [h, Bool.or_true]
  · exact h

/-- TX_SCHED clears EVENT only at an open gate, a ready transmitter and an empty queue, and then sends nothing. -/
theorem txSched_clears_event {r : Bool} {s : State} (h : s.event = true) (hf : (txSched r s).event = false) :
    (txSched r s).idle = true ∧ (txSched r s).pos ≠ 0 ∧ r = true ∧ (txSched r s).rd = (txSched r s).wr ∧
      (txSched r s).txWr = false := by
  rw [txSched_eq] at hf ⊢
  by_cases hg : gateOpen s = true ∧ r = true
  · rw [if_pos hg] at hf ⊢
    by_cases hempty : s.rd = s.wr
    · obtain ⟨-, hidle, hpos⟩ := (gateOpen_iff s).1 hg.1
      rw [if_pos hempty, txEventClear_eq]
      exact ⟨hidle, hpos, hg.2, hempty, rfl⟩
    · simp [hempty, txByte, h] at hf
  · rw [if_neg hg] at hf
    simp [h] at hf

theorem iteration_pos (w : In5) {s : State} (ha : Admitted s) : (iteration w s).pos = (sampledPart w s).pos := by
  rw [iteration_eq w s ha.pos, txSched_frame]
  rfl

theorem iteration_idle (w : In5) {s : State} (ha : Admitted s) : (iteration w s).idle = (sampledPart w s).idle := by
  rw [iteration_eq w s ha.pos, txSched_frame]
  rfl

theorem iteration_prev (w : In5) {s : State} (ha : Admitted s) : (iteration w s).prev = inLines w := by
  rw [iteration_eq w s ha.pos, txSched_frame]
  rfl

/-- Settles O7, by whether POS is 0. -/
theorem positionHasTwoWrites : Obligations.PositionHasTwoWrites := by
  intro s w ha hx
  refine ⟨iteration w s, proceed_of_admitted ha _, ?_⟩
  rw [iteration_pos w ha]
  by_cases h0 : s.pos = 0
  · rw [sampledPart_of_zero w h0 hx, if_pos h0, apply_ite State.pos, ← h0]
    rfl
  · rw [sampledPart_of_ne_zero w h0, if_neg h0, apply_ite State.pos,
      serviceAt_pos _ _ _ (sampled_admitted w s ha) (isPosition_of_ne ha.pos h0)]
    rfl

/-- R21: without a serviced edge at 1..63 IDLE stays. -/
theorem sampledPart_idle (w : In5) {s : State} (ha : Admitted s) (hx : s.cfg.syncExitServicesClock = false)
    (h : s.pos = 0 ∨ s.pos = 64 ∨ (w.getLsbD 0 && !s.prev.getLsbD 0) = false) :
    (sampledPart w s).idle = s.idle := by
  by_cases h0 : s.pos = 0
  · rw [sampledPart_of_zero w h0 hx]
    split <;> rfl
  · rw [sampledPart_of_ne_zero w h0]
    split
    · rename_i hedge
      have h64 : s.pos = 64 := by
        rcases h with h | h | h
        · exact absurd h h0
        · exact h
        · exact absurd (hedge.symm.trans h) (by decide)
      rw [h64]
      exact serviceAt_pedal_idle _ _ (sampled_admitted w s ha)
    · rfl

/-- R20: the sampler part never clears EVENT. -/
theorem sampledPart_event (w : In5) {s : State} (ha : Admitted s) (hx : s.cfg.syncExitServicesClock = false)
    (h : s.event = true) : (sampledPart w s).event = true := by
  by_cases h0 : s.pos = 0
  · rw [sampledPart_of_zero w h0 hx]
    split <;> exact h
  · rw [sampledPart_of_ne_zero w h0]
    split
    · exact serviceAt_event s.pos _ _ (sampled_admitted w s ha) (isPosition_of_ne ha.pos h0) h
    · exact h

/-- Settles O11. -/
theorem flagsChangeOnlyAsTheirRulesSay : Obligations.FlagsChangeOnlyAsTheirRulesSay := by
  intro s t w ha hx ht
  obtain ⟨-, rfl⟩ := exec_iteration_eq_next ht
  refine ⟨fun h => (iteration_idle w ha).trans (sampledPart_idle w ha hx h), fun hev hf => ?_⟩
  have hkept : (prevUpdate (inLines w) (sampledPart w s)).event = true := sampledPart_event w ha hx hev
  rw [iteration_eq w s ha.pos] at hf ⊢
  exact txSched_clears_event hkept hf

/-- Settles O9. -/
theorem iterationRecordsItsSample : Obligations.IterationRecordsItsSample := by
  intro s t w h
  obtain ⟨ha, rfl⟩ := exec_iteration_eq_next h
  exact iteration_prev w ha

end Sys2Proof.Machine
end

section
/-! SUPPORT. The reset state (spec/10_state.md R30, R31). -/

namespace Sys2Proof.Machine

theorem ktByte_of_cleared {s : State} (h : s.kt = Vector.replicate 9 0) {b : Nat} (hb : b < 9) : ktByte s b = 0 := by
  simp [ktByte, h, hb]

/-- Settles O16: the table, register by register. -/
theorem resetLeavesTheTableValues : Obligations.ResetLeavesTheTableValues :=
  ⟨rfl, rfl, rfl, rfl, fun _ => ktByte_of_cleared rfl, rfl, rfl, rfl, rfl, rfl⟩

theorem admitted_reset : Admitted State.reset :=
  ⟨by decide, by decide, by decide, by decide, by decide⟩

theorem stateInv_reset : StateInv State.reset :=
  ⟨admitted_reset, cleared_unusedBits rfl, .inl rfl, reset_memory_wf, fun _ hc => absurd hc List.not_mem_nil⟩

/-- Nothing has been sent and nothing is queued: no messages. -/
theorem framed_reset : Framed State.reset :=
  ⟨[], fun _ hm => absurd hm List.not_mem_nil, rfl⟩

/-- Settles O22. -/
theorem resetHasTheInvariants : Obligations.ResetHasTheInvariants :=
  ⟨stateInv_reset, fun _ => rfl, liveSlotsWritten_of_zero rfl rfl, framed_reset, fun hpos => absurd rfl hpos⟩

end Sys2Proof.Machine
end

section
/-! SUPPORT. The words of spec/30_encoding.md R60 to R69 as bit vectors: which operation each word names, and which
word each operation has. -/

namespace Sys2Proof

open Sys2Proof.Machine

/-! The position patterns of R68 -/

theorem append_toNat {k m : Nat} (c : BitVec k) (q : BitVec m) : (c ++ q).toNat = c.toNat * 2 ^ m + q.toNat := by
  rw [BitVec.toNat_append, ← Nat.shiftLeft_add_eq_or_of_lt q.isLt, Nat.shiftLeft_eq]

theorem fillerPosition_toNat (q : BitVec 1) : (fillerPosition q).toNat = 32 + q.toNat := append_toNat _ q

theorem keyHiPosition_toNat (q : BitVec 5) : (keyHiPosition q).toNat = 32 + q.toNat := append_toNat _ q

theorem keyLoPosition_toNat (q : BitVec 5) : (keyLoPosition q).toNat = q.toNat :=
  (append_toNat _ q).trans (Nat.zero_add _)

theorem beyondPosition_toNat (q : BitVec 6) : (beyondPosition q).toNat = 64 + q.toNat := append_toNat _ q

theorem low_bits_toNat (p : Position) (k : Nat) : (p.extractLsb' 0 k).toNat = p.toNat % 2 ^ k := by
  rw [BitVec.extractLsb'_toNat, Nat.shiftRight_zero]

theorem fillerPosition_low_bits {p : Position} (h : p = 32 ∨ p = 33) : fillerPosition (p.extractLsb' 0 1) = p := by
  rcases h with rfl | rfl <;> rfl

theorem keyHiPosition_low_bits {p : Position} (h : 34 ≤ p.toNat ∧ p.toNat ≤ 63) :
    keyHiPosition (p.extractLsb' 0 5) = p := by
  refine BitVec.eq_of_toNat_eq ?_
  rw [keyHiPosition_toNat, low_bits_toNat]
  omega

theorem keyLoPosition_low_bits {p : Position} (h : 1 ≤ p.toNat ∧ p.toNat ≤ 31) :
    keyLoPosition (p.extractLsb' 0 5) = p := by
  refine BitVec.eq_of_toNat_eq ?_
  rw [keyLoPosition_toNat, low_bits_toNat]
  omega

theorem beyondPosition_low_bits {p : Position} (h : 64 ≤ p.toNat) : beyondPosition (p.extractLsb' 0 6) = p := by
  have := p.isLt
  refine BitVec.eq_of_toNat_eq ?_
  rw [beyondPosition_toNat, low_bits_toNat]
  omega

/-! MSG24 (R62, R63, R64) -/

theorem exists_append {k m : Nat} (w : BitVec (k + m)) : ∃ (a : BitVec k) (b : BitVec m), w = a ++ b :=
  ⟨w.extractLsb' m k, w.extractLsb' 0 m, BitVec.extractLsb'_append_extractLsb'.symm⟩

theorem exists_msg24 (w : BitVec 24) : ∃ (a c : Byte) (x : BitVec 1) (n : BitVec 7), w = a ++ x ++ n ++ c := by
  obtain ⟨v, c, rfl⟩ := exists_append (k := 16) (m := 8) w
  obtain ⟨u, n, rfl⟩ := exists_append (k := 9) (m := 7) v
  obtain ⟨a, x, rfl⟩ := exists_append (k := 8) (m := 1) u
  exact ⟨a, c, x, n, rfl⟩

/-- Appended vectors are equal part by part. -/
theorem append_eq_append_iff {k m : Nat} {a a' : BitVec k} {b b' : BitVec m} :
    a ++ b = a' ++ b' ↔ a = a' ∧ b = b' := by
  refine ⟨fun h => ⟨?_, ?_⟩, fun ⟨ha, hb⟩ => ha ▸ hb ▸ rfl⟩
  · rw [← BitVec.extractLsb'_append_eq_left (a := a) (b := b), h, BitVec.extractLsb'_append_eq_left]
  · rw [← BitVec.extractLsb'_append_eq_right (a := a) (b := b), h, BitVec.extractLsb'_append_eq_right]

/-- The mask of R62 and R63 passes the status byte, bit 7 of the first data byte and the second data byte. -/
theorem msg24_masked_eq_iff (a c a' c' : Byte) (x : BitVec 1) (n : BitVec 7) :
    (a ++ x ++ n ++ c) &&& 0xFF80FF = a' ++ 0#1 ++ 0#7 ++ c' ↔ a = a' ∧ x = 0 ∧ c = c' := by
  have hmask : (0xFF80FF : BitVec 24) = 0xFF#8 ++ 1#1 ++ 0#7 ++ 0xFF#8 := rfl
  have ha : a &&& 0xFF#8 = a := BitVec.and_allOnes
  have hx : x &&& 1#1 = x := BitVec.and_allOnes (w := 1)
  have hc : c &&& 0xFF#8 = c := BitVec.and_allOnes
  rw [hmask, BitVec.and_append, BitVec.and_append, BitVec.and_append, ha, hx, hc, BitVec.and_zero]
  simp only [append_eq_append_iff, and_true, and_assoc]
  rfl

/-- The message that a 24-bit word is, by its parts. -/
theorem decodeMsg24_append (a c : Byte) (x : BitVec 1) (n : BitVec 7) : decodeMsg24 (a ++ x ++ n ++ c) =
    if a = 0x90 ∧ x = 0 ∧ c = 0x40 then some (.noteOn n)
    else if a = 0x80 ∧ x = 0 ∧ c = 0x00 then some (.noteOff n)
    else if a ++ x ++ n ++ c = 0xB0407F then some .ccDamperReleased
    else if a ++ x ++ n ++ c = 0xB04000 then some .ccDamperPressed
    else none := by
  have hn : (a ++ x ++ n ++ c).extractLsb' 8 7 = n := by
    rw [BitVec.extractLsb'_append_eq_of_le (by decide)]
    exact BitVec.extractLsb'_append_eq_right
  have hon := msg24_masked_eq_iff a c 0x90 0x40 x n
  have hoff := msg24_masked_eq_iff a c 0x80 0x00 x n
  unfold decodeMsg24
  rw [hn]
  exact if_congr hon rfl (if_congr hoff rfl rfl)

theorem decodeMsg24_noteOn (n : BitVec 7) : decodeMsg24 (0x90#8 ++ 0#1 ++ n ++ 0x40#8) = some (.noteOn n) := by
  rw [decodeMsg24_append, if_pos ⟨rfl, rfl, rfl⟩]

theorem decodeMsg24_noteOff (n : BitVec 7) : decodeMsg24 (0x80#8 ++ 0#1 ++ n ++ 0x00#8) = some (.noteOff n) := by
  rw [decodeMsg24_append, if_neg (fun h => absurd h.1 (by decide)), if_pos ⟨rfl, rfl, rfl⟩]

/-- A 24-bit word that is a message is the word of that message. -/
theorem encodeWord_of_decodeMsg24 {w : BitVec 24} {i : Instr} (h : decodeMsg24 w = some i) :
    encodeWord i = some (.msg24, w.toNat) := by
  obtain ⟨a, c, x, n, rfl⟩ := exists_msg24 w
  rw [decodeMsg24_append] at h
  split at h
  case isTrue hon =>
    obtain ⟨rfl, rfl, rfl⟩ := hon
    cases h
    rfl
  case isFalse =>
    split at h
    case isTrue hoff =>
      obtain ⟨rfl, rfl, rfl⟩ := hoff
      cases h
      rfl
    case isFalse =>
      split at h
      case isTrue hw =>
        cases h
        rw [hw]
        rfl
      case isFalse =>
        split at h
        case isTrue hw =>
          cases h
          rw [hw]
          rfl
        case isFalse => cases h

/-! SEL9 (R68, R69) -/

theorem exists_sel9Word : ∀ w : BitVec 9, ∃ f r p, w = sel9Word f r p := by
  have parts : ∀ w : BitVec 9, w = sel9Word (w.getLsbD 8) (w.getLsbD 7) (w.extractLsb' 0 7) := by decide
  exact fun w => ⟨_, _, _, parts w⟩

/-- The row a SEL9 word names, by the position classes of R68. -/
theorem decodeSel9_sel9Word : ∀ (f r : Bool) (p : Position), decodeSel9 (sel9Word f r p) =
    if p = 0 then (if f then .syncExit r else .syncHold r)
    else if r = false then .noEdge f p
    else if p = 64 then .capturePedal f
    else if p = 32 ∨ p = 33 then .captureFiller f (p.extractLsb' 0 1)
    else if 34 ≤ p.toNat ∧ p.toNat ≤ 63 then .captureKeyHi f (p.extractLsb' 0 5)
    else if 1 ≤ p.toNat ∧ p.toNat ≤ 31 then .captureKeyLo f (p.extractLsb' 0 5)
    else .unreachablePos f (p.extractLsb' 0 6) := by
  decide

theorem decodeSel9_noEdge (f : Bool) {p : Position} (h : p ≠ 0) : decodeSel9 (sel9Word f false p) = .noEdge f p := by
  rw [decodeSel9_sel9Word, if_neg h, if_pos rfl]

/-- The rows of a clock edge are told apart by the position alone. -/
theorem decodeSel9_edge (f : Bool) {p : Position} (h : p ≠ 0) : decodeSel9 (sel9Word f true p) =
    if p = 64 then .capturePedal f
    else if p = 32 ∨ p = 33 then .captureFiller f (p.extractLsb' 0 1)
    else if 34 ≤ p.toNat ∧ p.toNat ≤ 63 then .captureKeyHi f (p.extractLsb' 0 5)
    else if 1 ≤ p.toNat ∧ p.toNat ≤ 31 then .captureKeyLo f (p.extractLsb' 0 5)
    else .unreachablePos f (p.extractLsb' 0 6) := by
  rw [decodeSel9_sel9Word, if_neg h, if_neg Bool.noConfusion]

theorem decodeSel9_capturePedal (f : Bool) : decodeSel9 (sel9Word f true pedalPosition) = .capturePedal f := by
  rw [decodeSel9_edge f (by decide)]
  exact if_pos rfl

theorem decodeSel9_captureFiller (f : Bool) (q : BitVec 1) :
    decodeSel9 (sel9Word f true (fillerPosition q)) = .captureFiller f q := by
  have hp := fillerPosition_toNat q
  have hq : (fillerPosition q).extractLsb' 0 1 = q := BitVec.extractLsb'_append_eq_right
  rw [decodeSel9_edge f (by bv_omega), if_neg (by bv_omega), if_pos (by bv_omega), hq]

theorem decodeSel9_captureKeyHi (f : Bool) {q : BitVec 5} (h : (Instr.captureKeyHi f q).wf = true) :
    decodeSel9 (sel9Word f true (keyHiPosition q)) = .captureKeyHi f q := by
  have hp := keyHiPosition_toNat q
  have hq : (keyHiPosition q).extractLsb' 0 5 = q := BitVec.extractLsb'_append_eq_right
  obtain ⟨h0, h1⟩ : q ≠ 0 ∧ q ≠ 1 := by simpa [Instr.wf] using h
  rw [decodeSel9_edge f (by bv_omega), if_neg (by bv_omega), if_neg (by bv_omega), if_pos (by bv_omega), hq]

theorem decodeSel9_captureKeyLo (f : Bool) {q : BitVec 5} (h : (Instr.captureKeyLo f q).wf = true) :
    decodeSel9 (sel9Word f true (keyLoPosition q)) = .captureKeyLo f q := by
  have hp := keyLoPosition_toNat q
  have hq : (keyLoPosition q).extractLsb' 0 5 = q := BitVec.extractLsb'_append_eq_right
  have h0 : q ≠ 0 := by simpa [Instr.wf] using h
  rw [decodeSel9_edge f (by bv_omega), if_neg (by bv_omega), if_neg (by bv_omega), if_neg (by bv_omega),
    if_pos (by bv_omega), hq]

theorem decodeSel9_unreachablePos (f : Bool) {q : BitVec 6} (h : (Instr.unreachablePos f q).wf = true) :
    decodeSel9 (sel9Word f true (beyondPosition q)) = .unreachablePos f q := by
  have hp := beyondPosition_toNat q
  have hq : (beyondPosition q).extractLsb' 0 6 = q := BitVec.extractLsb'_append_eq_right
  have h0 : q ≠ 0 := by simpa [Instr.wf] using h
  rw [decodeSel9_edge f (by bv_omega), if_neg (by bv_omega), if_neg (by bv_omega), if_neg (by bv_omega),
    if_neg (by bv_omega), hq]

/-- A SEL9 word is the word of the row it names. -/
theorem encodeWord_decodeSel9 (w : BitVec 9) : encodeWord (decodeSel9 w).instr = some (.sel9, w.toNat) := by
  obtain ⟨f, r, p, rfl⟩ := exists_sel9Word w
  by_cases h0 : p = 0
  · subst h0
    rw [decodeSel9_sel9Word, if_pos rfl]
    cases f <;> rfl
  cases r with
  | false =>
    rw [decodeSel9_noEdge f h0]
    rfl
  | true =>
    have word : ∀ p', p' = p →
        some (Format.sel9, (sel9Word f true p').toNat) = some (.sel9, (sel9Word f true p).toNat) := fun _ e => e ▸ rfl
    rw [decodeSel9_edge f h0]
    split
    case isTrue h => exact word pedalPosition h.symm
    case isFalse h64 =>
      split
      case isTrue h => exact word _ (fillerPosition_low_bits h)
      case isFalse hf =>
        split
        case isTrue h => exact word _ (keyHiPosition_low_bits h)
        case isFalse hhi =>
          split
          case isTrue h => exact word _ (keyLoPosition_low_bits h)
          case isFalse hlo => exact word _ (beyondPosition_low_bits (by bv_omega))

/-! POS7 (R69, R101) -/

theorem decodePos7_block : ∀ b : Fin 9, b ≠ 0 → decodePos7 (BitVec.ofNat 7 (8 * b.val)) = some (.block b) := by
  decide

/-- A POS7 word that selects a snapshot is the word of that snapshot. -/
theorem encodeWord_of_decodePos7 {p : Position} {o : SnapshotOp} (h : decodePos7 p = some o) :
    encodeWord o.instr = some (.pos7, p.toNat) := by
  have hfirst : p &&& 0x7F = p := BitVec.and_allOnes
  have hblock : (p &&& 0x07).toNat = p.toNat % 8 := Nat.and_two_pow_sub_one_eq_mod p.toNat 3
  unfold decodePos7 at h
  rw [hfirst] at h
  split at h
  case isTrue h1 =>
    cases h
    rw [h1]
    rfl
  case isFalse =>
    split at h
    case isTrue h8 =>
      split at h
      case isTrue => cases h
      case isFalse =>
        split at h
        case isTrue h9 =>
          cases h
          have hmod : p.toNat % 8 = 0 := by rw [← hblock, h8]; rfl
          have hword : 8 * (p.toNat / 8) = p.toNat := Nat.mul_div_cancel' (Nat.dvd_of_mod_eq_zero hmod)
          exact congrArg (fun n => some (Format.pos7, n)) hword
        case isFalse => cases h
    case isFalse => cases h

/-! CAPSEL3 and TXSEL5 (R69) -/

theorem exists_capsel3Word : ∀ w : BitVec 3, ∃ k x e, w = capsel3Word k x e := by
  have parts : ∀ w : BitVec 3, w = capsel3Word (w.getLsbD 2) (w.getLsbD 1) (w.getLsbD 0) := by decide
  exact fun w => ⟨_, _, _, parts w⟩

/-- A CAPSEL3 word is the word of the arm it selects. -/
theorem encodeWord_decodeCapsel3 (w : BitVec 3) : encodeWord (decodeCapsel3 w).instr = some (.capsel3, w.toNat) := by
  obtain ⟨k, x, e, rfl⟩ := exists_capsel3Word w
  rw [decodeCapsel3_spec]
  cases k with
  | false => cases e <;> rfl
  | true => cases x <;> rfl

theorem exists_txsel5Word : ∀ w : BitVec 5, ∃ ev id nz r ne, w = txsel5Word ev id nz r ne := by
  have parts : ∀ w : BitVec 5,
      w = txsel5Word (w.getLsbD 4) (w.getLsbD 3) (w.getLsbD 2) (w.getLsbD 1) (w.getLsbD 0) := by decide
  exact fun w => ⟨_, _, _, _, _, parts w⟩

theorem decodeTxsel5_txGated {ev id nz r ne : Bool} (h : (Instr.txGated ev id nz r ne).wf = true) :
    decodeTxsel5 (txsel5Word ev id nz r ne) = .txGated ev id nz r ne := by
  have hgate : (ev && id && nz) = false := by simpa only [Instr.wf, Bool.not_eq_true'] using h
  rw [decodeTxsel5_spec, hgate, if_neg Bool.noConfusion]

/-- A TXSEL5 word is the word of the outcome it selects. -/
theorem encodeWord_decodeTxsel5 (w : BitVec 5) : encodeWord (decodeTxsel5 w).instr = some (.txsel5, w.toNat) := by
  obtain ⟨ev, id, nz, r, ne, rfl⟩ := exists_txsel5Word w
  rw [decodeTxsel5_spec]
  split
  case isTrue hgate =>
    obtain ⟨⟨rfl, rfl⟩, rfl⟩ : (ev = true ∧ id = true) ∧ nz = true := by simpa using hgate
    cases r with
    | false => rfl
    | true => cases ne <;> rfl
  case isFalse => rfl

end Sys2Proof
end

section
/-! SUPPORT. The bytes of a word and the decoder over bytes (spec/30_encoding.md R60), and the statements of
decoding and encoding. -/

namespace Sys2Proof

open Sys2Proof.Machine

/-- The word of the given format and bits names the operation; its layout in bytes is not in it. -/
inductive WordNames : Format → Nat → Instr → Prop
  | msg24 {w : BitVec 24} {i : Instr} : decodeMsg24 w = some i → WordNames .msg24 w.toNat i
  | sel9 {w : BitVec 9} {o : SamplerOp} : decodeSel9 w = o → WordNames .sel9 w.toNat o.instr
  | pos7 {p : Position} {o : SnapshotOp} : decodePos7 p = some o → WordNames .pos7 p.toNat o.instr
  | capsel3 {w : BitVec 3} {o : CaptureArm} : decodeCapsel3 w = o → WordNames .capsel3 w.toNat o.instr
  | txsel5 {w : BitVec 5} {o : TxOutcome} : decodeTxsel5 w = o → WordNames .txsel5 w.toNat o.instr
  | in5 (w : In5) : WordNames .in5 w.toNat (.iteration w)

/-- A word that names an operation is the word of that operation. -/
theorem WordNames.encodeWord_eq {fmt : Format} {n : Nat} {i : Instr} (h : WordNames fmt n i) :
    encodeWord i = some (fmt, n) := by
  cases h with
  | msg24 h => exact encodeWord_of_decodeMsg24 h
  | sel9 h => exact h ▸ encodeWord_decodeSel9 _
  | pos7 h => exact encodeWord_of_decodePos7 h
  | capsel3 h => exact h ▸ encodeWord_decodeCapsel3 _
  | txsel5 h => exact h ▸ encodeWord_decodeTxsel5 _
  | in5 w => rfl

/-- The word of a well-formed operation names it. -/
theorem wordNames_of_encodeWord {i : Instr} {fmt : Format} {n : Nat} (hwf : i.wf = true)
    (h : encodeWord i = some (fmt, n)) : WordNames fmt n i := by
  cases i with
  | noteOn n => cases h; exact .msg24 (decodeMsg24_noteOn n)
  | noteOff n => cases h; exact .msg24 (decodeMsg24_noteOff n)
  | ccDamperReleased => cases h; exact .msg24 (w := 0xB0407F) (by decide)
  | ccDamperPressed => cases h; exact .msg24 (w := 0xB04000) (by decide)
  | syncExit r => cases h; exact .sel9 (decodeSel9_sel9Word true r 0)
  | syncHold r => cases h; exact .sel9 (decodeSel9_sel9Word false r 0)
  | noEdge f p => cases h; exact .sel9 (decodeSel9_noEdge f (bne_iff_ne.1 hwf))
  | capturePedal f => cases h; exact .sel9 (decodeSel9_capturePedal f)
  | captureFiller f q => cases h; exact .sel9 (decodeSel9_captureFiller f q)
  | captureKeyHi f q => cases h; exact .sel9 (decodeSel9_captureKeyHi f hwf)
  | captureKeyLo f q => cases h; exact .sel9 (decodeSel9_captureKeyLo f hwf)
  | unreachablePos f q => cases h; exact .sel9 (decodeSel9_unreachablePos f hwf)
  | blockSnapshotBlock b =>
    cases h
    have hn : (BitVec.ofNat 7 (8 * b.val)).toNat = 8 * b.val :=
      (BitVec.toNat_ofNat _ _).trans (Nat.mod_eq_of_lt (by omega))
    have hnames := WordNames.pos7 (decodePos7_block b (bne_iff_ne.1 hwf))
    rwa [hn] at hnames
  | blockSnapshotFirst => cases h; exact .pos7 (p := 1) (o := .first) (by decide)
  | keyTransition e =>
    obtain rfl : e = false := by simpa [Instr.wf] using hwf
    cases h
    exact .capsel3 (decodeCapsel3_spec true true false)
  | pedalSlot x => cases h; exact .capsel3 (decodeCapsel3_spec false x true)
  | idleMarkKey e =>
    obtain rfl : e = false := by simpa [Instr.wf] using hwf
    cases h
    exact .capsel3 (decodeCapsel3_spec true false false)
  | idleMarkFiller x => cases h; exact .capsel3 (decodeCapsel3_spec false x false)
  | txByte => cases h; exact .txsel5 (decodeTxsel5_spec true true true true true)
  | txEventClear => cases h; exact .txsel5 (decodeTxsel5_spec true true true true false)
  | txNotReady ne => cases h; exact .txsel5 (decodeTxsel5_spec true true true false ne)
  | txGated ev id nz r ne => cases h; exact .txsel5 (decodeTxsel5_txGated hwf)
  | iteration w => cases h; exact .in5 w
  -- the rows without a word
  | _ => cases h

/-! The layout in bytes -/

theorem msg24_bytes_append (b0 b1 b2 : Byte) : Format.bytes .msg24 (b0 ++ b1 ++ b2).toNat = [b0, b1, b2] := by
  simp only [Format.bytes, append_toNat, List.cons.injEq, and_true]
  exact ⟨by bv_omega, by bv_omega, by bv_omega⟩

theorem sel9_bytes_append (a : BitVec 1) (lo : Byte) : Format.bytes .sel9 (a ++ lo).toNat = [lo, 0#7 ++ a] := by
  have ha : (0#7 ++ a).toNat = a.toNat := (append_toNat _ a).trans (by simp)
  simp only [Format.bytes, append_toNat, List.cons.injEq, and_true]
  exact ⟨by bv_omega, by bv_omega⟩

/-- A word shorter than its byte stands in the low bits. -/
theorem ofNat_toNat_eq_append {k m : Nat} (w : BitVec m) : BitVec.ofNat (k + m) w.toNat = 0#k ++ w := by
  have hlt : w.toNat < 2 ^ (k + m) := w.isLt.trans_le (Nat.pow_le_pow_right (by decide) (Nat.le_add_left m k))
  refine BitVec.eq_of_toNat_eq ?_
  rw [append_toNat, BitVec.toNat_ofNat, Nat.mod_eq_of_lt hlt]
  simp

theorem pos7_bytes (p : Position) : Format.bytes .pos7 p.toNat = [0#1 ++ p] :=
  congrArg ([·]) (ofNat_toNat_eq_append p)

theorem capsel3_bytes (w : BitVec 3) : Format.bytes .capsel3 w.toNat = [0#5 ++ w] :=
  congrArg ([·]) (ofNat_toNat_eq_append w)

theorem txsel5_bytes (w : BitVec 5) : Format.bytes .txsel5 w.toNat = [0#3 ++ w] :=
  congrArg ([·]) (ofNat_toNat_eq_append w)

theorem in5_bytes (w : In5) : Format.bytes .in5 w.toNat = [0#3 ++ w] :=
  congrArg ([·]) (ofNat_toNat_eq_append w)

/-- The mask above a word's width is clear exactly when the spare bits are 0. -/
theorem spareMask_eq_zero_iff {k m : Nat} (a : BitVec k) (w : BitVec m) :
    (a ++ w) &&& (BitVec.allOnes k ++ 0#m) = 0#(k + m) ↔ a = 0#k := by
  rw [BitVec.and_append, BitVec.and_allOnes, BitVec.and_zero, ← BitVec.zero_append_zero, append_eq_append_iff]
  exact and_iff_left rfl

theorem decode_msg24_iff (b0 b1 b2 : Byte) (i : Instr) :
    decode .msg24 [b0, b1, b2] = .ok i ↔ decodeMsg24 (b0 ++ b1 ++ b2) = some i := by
  simp only [decode]
  split <;> simp [*]

theorem decode_sel9_iff (a : BitVec 7) (b : BitVec 1) (lo : Byte) (i : Instr) :
    decode .sel9 [lo, a ++ b] = .ok i ↔ a = 0#7 ∧ (decodeSel9 (b ++ lo)).instr = i := by
  have hspare : (a ++ b : Byte) &&& 0xFE = 0 ↔ a = 0#7 := spareMask_eq_zero_iff a b
  have hlow : (a ++ b : Byte).extractLsb' 0 1 = b := BitVec.extractLsb'_append_eq_right
  simp only [decode, hspare, hlow]
  split <;> simp [*]

theorem decode_pos7_iff (a : BitVec 1) (p : Position) (i : Instr) :
    decode .pos7 [a ++ p] = .ok i ↔ a = 0#1 ∧ ∃ o, decodePos7 p = some o ∧ o.instr = i := by
  have hspare : (a ++ p : Byte) &&& 0x80 = 0 ↔ a = 0#1 := spareMask_eq_zero_iff a p
  have hlow : (a ++ p : Byte).extractLsb' 0 7 = p := BitVec.extractLsb'_append_eq_right
  simp only [decode, hspare, hlow]
  split
  · cases decodePos7 p <;> simp [*]
  · simp [*]

theorem decode_capsel3_iff (a : BitVec 5) (w : BitVec 3) (i : Instr) :
    decode .capsel3 [a ++ w] = .ok i ↔ a = 0#5 ∧ (decodeCapsel3 w).instr = i := by
  have hspare : (a ++ w : Byte) &&& 0xF8 = 0 ↔ a = 0#5 := spareMask_eq_zero_iff a w
  have hlow : (a ++ w : Byte).extractLsb' 0 3 = w := BitVec.extractLsb'_append_eq_right
  simp only [decode, hspare, hlow]
  split <;> simp [*]

theorem decode_txsel5_iff (a : BitVec 3) (w : BitVec 5) (i : Instr) :
    decode .txsel5 [a ++ w] = .ok i ↔ a = 0#3 ∧ (decodeTxsel5 w).instr = i := by
  have hspare : (a ++ w : Byte) &&& 0xE0 = 0 ↔ a = 0#3 := spareMask_eq_zero_iff a w
  have hlow : (a ++ w : Byte).extractLsb' 0 5 = w := BitVec.extractLsb'_append_eq_right
  simp only [decode, hspare, hlow]
  split <;> simp [*]

theorem decode_in5_iff (a : BitVec 3) (w : In5) (i : Instr) :
    decode .in5 [a ++ w] = .ok i ↔ a = 0#3 ∧ decodeIn5 w = i := by
  have hspare : (a ++ w : Byte) &&& 0xE0 = 0 ↔ a = 0#3 := spareMask_eq_zero_iff a w
  have hlow : (a ++ w : Byte).extractLsb' 0 5 = w := BitVec.extractLsb'_append_eq_right
  simp only [decode, hspare, hlow]
  split <;> simp [*]

/-- Only bytes of the format's length decode. -/
theorem length_of_decode {fmt : Format} {bytes : List Byte} {i : Instr} (h : decode fmt bytes = .ok i) :
    bytes.length = Laws.EncodedLength.formatBytes fmt := by
  unfold decode at h
  split at h
  case h_7 => cases h
  all_goals rfl

/-- The layout of a word in bytes loses nothing. -/
theorem WordNames.decode_bytes {fmt : Format} {n : Nat} {i : Instr} (h : WordNames fmt n i) :
    decode fmt (fmt.bytes n) = .ok i := by
  cases h with
  | @msg24 w i h =>
    obtain ⟨v, b2, rfl⟩ := exists_append (k := 16) (m := 8) w
    obtain ⟨b0, b1, rfl⟩ := exists_append (k := 8) (m := 8) v
    rw [msg24_bytes_append]
    exact (decode_msg24_iff b0 b1 b2 i).2 h
  | @sel9 w o h =>
    obtain ⟨b, lo, rfl⟩ := exists_append (k := 1) (m := 8) w
    rw [sel9_bytes_append]
    exact (decode_sel9_iff 0 b lo _).2 ⟨rfl, congrArg _ h⟩
  | @pos7 p o h =>
    rw [pos7_bytes]
    exact (decode_pos7_iff 0 p _).2 ⟨rfl, o, h, rfl⟩
  | @capsel3 w o h =>
    rw [capsel3_bytes]
    exact (decode_capsel3_iff 0 w _).2 ⟨rfl, congrArg _ h⟩
  | @txsel5 w o h =>
    rw [txsel5_bytes]
    exact (decode_txsel5_iff 0 w _).2 ⟨rfl, congrArg _ h⟩
  | in5 w =>
    rw [in5_bytes]
    exact (decode_in5_iff 0 w _).2 ⟨rfl, rfl⟩

/-- Bytes that decode are the layout of a word that names the operation. -/
theorem exists_wordNames_of_decode {fmt : Format} {bytes : List Byte} {i : Instr} (h : decode fmt bytes = .ok i) :
    ∃ n, WordNames fmt n i ∧ fmt.bytes n = bytes := by
  have hlen := length_of_decode h
  cases fmt with
  | msg24 =>
    obtain ⟨b0, b1, b2, rfl⟩ := List.length_eq_three.1 hlen
    exact ⟨_, .msg24 ((decode_msg24_iff b0 b1 b2 i).1 h), msg24_bytes_append b0 b1 b2⟩
  | sel9 =>
    obtain ⟨lo, hi, rfl⟩ := List.length_eq_two.1 hlen
    obtain ⟨a, b, rfl⟩ := exists_append (k := 7) (m := 1) hi
    obtain ⟨rfl, rfl⟩ := (decode_sel9_iff a b lo i).1 h
    exact ⟨_, .sel9 rfl, sel9_bytes_append b lo⟩
  | pos7 =>
    obtain ⟨v, rfl⟩ := List.length_eq_one_iff.1 hlen
    obtain ⟨a, p, rfl⟩ := exists_append (k := 1) (m := 7) v
    obtain ⟨rfl, o, ho, rfl⟩ := (decode_pos7_iff a p i).1 h
    exact ⟨_, .pos7 ho, pos7_bytes p⟩
  | capsel3 =>
    obtain ⟨v, rfl⟩ := List.length_eq_one_iff.1 hlen
    obtain ⟨a, w, rfl⟩ := exists_append (k := 5) (m := 3) v
    obtain ⟨rfl, rfl⟩ := (decode_capsel3_iff a w i).1 h
    exact ⟨_, .capsel3 rfl, capsel3_bytes w⟩
  | txsel5 =>
    obtain ⟨v, rfl⟩ := List.length_eq_one_iff.1 hlen
    obtain ⟨a, w, rfl⟩ := exists_append (k := 3) (m := 5) v
    obtain ⟨rfl, rfl⟩ := (decode_txsel5_iff a w i).1 h
    exact ⟨_, .txsel5 rfl, txsel5_bytes w⟩
  | in5 =>
    obtain ⟨v, rfl⟩ := List.length_eq_one_iff.1 hlen
    obtain ⟨a, w, rfl⟩ := exists_append (k := 3) (m := 5) v
    obtain ⟨rfl, rfl⟩ := (decode_in5_iff a w i).1 h
    exact ⟨_, .in5 w, in5_bytes w⟩

/-- Everything the decoder accepts. -/
theorem decode_eq_ok_iff {fmt : Format} {bytes : List Byte} {i : Instr} :
    decode fmt bytes = .ok i ↔ ∃ n, WordNames fmt n i ∧ fmt.bytes n = bytes :=
  ⟨exists_wordNames_of_decode, fun ⟨_, h, e⟩ => e ▸ h.decode_bytes⟩

/-- Everything the encoder answers. -/
theorem encode_eq_some_iff {i : Instr} {fmt : Format} {bytes : List Byte} :
    encode i = some (fmt, bytes) ↔ ∃ n, encodeWord i = some (fmt, n) ∧ fmt.bytes n = bytes := by
  unfold encode
  cases encodeWord i with
  | none => simp
  | some e =>
    obtain ⟨fmt', n⟩ := e
    simp only [Option.some.injEq, Prod.mk.injEq]
    constructor
    · rintro ⟨rfl, rfl⟩
      exact ⟨n, ⟨rfl, rfl⟩, rfl⟩
    · rintro ⟨_, ⟨rfl, rfl⟩, rfl⟩
      exact ⟨rfl, rfl⟩

/-- Settles O1: the word of a well-formed operation names it, and the decoder reads the word back. -/
theorem encodedWordsDecodeBack : Obligations.EncodedWordsDecodeBack := by
  intro i fmt bytes hwf h
  obtain ⟨n, hn, rfl⟩ := encode_eq_some_iff.1 h
  exact (wordNames_of_encodeWord hwf hn).decode_bytes

/-- Settles O2: the decoder reads a word that names the operation, and an operation has one word. -/
theorem decodedWordsEncodeBack : Obligations.DecodedWordsEncodeBack := by
  intro i fmt bytes h
  obtain ⟨n, hn, rfl⟩ := decode_eq_ok_iff.1 h
  exact encode_eq_some_iff.2 ⟨n, hn.encodeWord_eq, rfl⟩

/-- Settles O3: each of the ten words is the layout of the word that the encoding tables give its operation. -/
theorem sampleWordsDecode : Obligations.SampleWordsDecode := by
  have back := encodedWordsDecodeBack
  exact ⟨back _ _ _ rfl rfl, back _ _ _ rfl rfl, back _ _ _ rfl rfl, back _ _ _ rfl rfl, back _ _ _ rfl rfl,
    back _ _ _ rfl rfl, back _ _ _ rfl rfl, back _ _ _ rfl rfl, back _ _ _ rfl rfl, back _ _ _ rfl rfl⟩

/-- Settles O4, one table each. -/
theorem selectWordsNameOneRow : Obligations.SelectWordsNameOneRow :=
  ⟨decodeSel9_sel9Word, decodeCapsel3_spec, decodeTxsel5_spec⟩

end Sys2Proof
end

section
/-! SUPPORT. The rows of spec/30_encoding.md R62 to R64 and R69 run as operations: the messages and the captures. -/

namespace Sys2Proof.Machine

theorem capture_admitted {s : State} (p : Position) (d ped : Bool) (h : Admitted s) (hp : isPosition p) :
    Admitted (capture p d ped s) := by
  obtain ⟨old, live, -, hc⟩ := capture_captured p d ped h hp
  exact hc.admitted

/-- An edge service is a capture and then an advance (R84). -/
theorem serviceOutcome_capture_advance {s : State} {p : Position} (d ped : Bool) (ha : Admitted s) (hp : isPosition p) :
    ∃ u t, exec (.capture p d ped) s = .next u ∧ exec .advance u = .next t ∧ serviceOutcome p d ped s = .next t := by
  have hc := capture_admitted p d ped ha hp
  refine ⟨capture p d ped s, advance (capture p d ped s), ?_, proceed_of_admitted hc _, ?_⟩
  · exact (if_pos hp).trans (proceed_of_admitted ha _)
  · exact (if_pos hp).trans (proceed_of_admitted ha _)

/-- Settles O37: the position of each row's word is one that a capture services. -/
theorem captureRowsServiceTheirPosition : Obligations.CaptureRowsServiceTheirPosition := by
  rintro s i f p ha hwf (⟨rfl, rfl⟩ | ⟨q, rfl, hp⟩ | ⟨q, rfl, hp⟩ | ⟨q, rfl, hp⟩)
  · exact serviceOutcome_capture_advance _ _ ha (by decide)
  · obtain rfl : fillerPosition q = p := BitVec.eq_of_toNat_eq ((fillerPosition_toNat q).trans hp.symm)
    exact serviceOutcome_capture_advance _ _ ha ⟨by omega, by omega⟩
  · obtain rfl : keyHiPosition q = p := BitVec.eq_of_toNat_eq ((keyHiPosition_toNat q).trans hp.symm)
    exact serviceOutcome_capture_advance _ _ ha ⟨by omega, by omega⟩
  · obtain rfl : keyLoPosition q = p := BitVec.eq_of_toNat_eq ((keyLoPosition_toNat q).trans hp.symm)
    have h0 : q ≠ 0 := bne_iff_ne.1 hwf
    exact serviceOutcome_capture_advance _ _ ha ⟨by bv_omega, by bv_omega⟩

/-- Settles O19: the row gives its word no effect. -/
theorem unreachablePositionsAreRefused : Obligations.UnreachablePositionsAreRefused :=
  fun _ _ _ => rfl

/-- Settles O52: each message word is run as ENQUEUE_MSG of its packing (R130 to R132). -/
theorem messageWordsAreEnqueued : Obligations.MessageWordsAreEnqueued := by
  intro s i n b0 b1 b2 ha h
  rcases h with ⟨rfl, rfl, rfl, rfl⟩ | ⟨rfl, rfl, rfl, rfl⟩ | ⟨rfl, rfl, rfl, rfl⟩ | ⟨rfl, rfl, rfl, rfl⟩
  · exact ⟨enqueueMsg (msgNoteOn n) s, proceed_of_admitted ha _, proceed_of_admitted ha _⟩
  · exact ⟨enqueueMsg (msgNoteOff n) s, proceed_of_admitted ha _, proceed_of_admitted ha _⟩
  · exact ⟨enqueueMsg (msgCcDamper true) s, proceed_of_admitted ha _, proceed_of_admitted ha _⟩
  · exact ⟨enqueueMsg (msgCcDamper false) s, proceed_of_admitted ha _, proceed_of_admitted ha _⟩

end Sys2Proof.Machine
end

section
/-! SUPPORT. The Frame Sampler's rows run as operations of their own (spec/40_frame_sampler.md R81 to R87), the
iteration as those operations in turn, and the step (R80). -/

namespace Sys2Proof.Machine

/-! The rows -/

theorem pedalBit_eq (c : Config) (w : In5) :
    pedalBit c w = if c.pedalSource = .pedalLine then w.getLsbD 3 else w.getLsbD 1 := by
  unfold pedalBit
  cases c.pedalSource <;> rfl

/-- Settles O30. -/
theorem sampleLatchesTheInputs : Obligations.SampleLatchesTheInputs := by
  intro s w ha
  rw [← pedalBit_eq]
  exact proceed_of_admitted ha (sample w s)

/-- Settles O31: the two masks of R82, bit by bit. -/
theorem edgesAreChangesAgainstPrev : Obligations.EdgesAreChangesAgainstPrev := by
  intro s cur ha
  exact ⟨edgeDetect cur s, proceed_of_admitted ha _, riseMask_bit cur s.prev, fallMask_bit cur s.prev, rfl⟩

/-- Settles O32. -/
theorem holdAndNoEdgeChangeNothing : Obligations.HoldAndNoEdgeChangeNothing :=
  fun s _ _ _ ha => ⟨proceed_of_admitted ha s, proceed_of_admitted ha s⟩

theorem syncExit_of_no_service {r : Bool} {s : State} (d ped : Bool)
    (h : s.cfg.syncExitServicesClock = false ∨ r = false) : syncExit r d ped s = setPos 1 s := by
  have hno : (s.cfg.syncExitServicesClock && r) = false := by
    rcases h with h | h <;> simp [h]
  simp [syncExit, hno]

theorem syncExit_of_service {s : State} (d ped : Bool) (h : s.cfg.syncExitServicesClock = true) :
    syncExit true d ped s = serviceAt 1 d ped (setPos 1 s) := by
  simp [syncExit, h]

theorem setPos_one_admitted {s : State} (h : Admitted s) : Admitted (setPos 1 s) :=
  h.of_eq rfl (by simp) h.wr h.rd

theorem serviceOutcome_of_isPosition {s : State} {p : Position} (d ped : Bool) (ha : Admitted s) (hp : isPosition p) :
    serviceOutcome p d ped s = .next (serviceAt p d ped s) :=
  (if_pos hp).trans (proceed_of_admitted ha _)

/-- Settles O33, by whether the switch of D8 lets the edge be serviced. -/
theorem syncExitSetsPositionOne : Obligations.SyncExitSetsPositionOne := by
  intro s r ha
  have hexit : exec (.syncExit r) s = .next (syncExit r (sampledData s) s.wires.ped s) := proceed_of_admitted ha _
  constructor
  · intro h
    rw [hexit, syncExit_of_no_service _ _ h]
    rfl
  · rintro hx rfl
    rw [syncExit_of_service _ _ hx] at hexit
    have hservice : exec (.edgeService (sampledData s) s.wires.ped) (setPos 1 s) =
        .next (serviceAt 1 (sampledData s) s.wires.ped (setPos 1 s)) :=
      serviceOutcome_of_isPosition (p := 1) _ _ (setPos_one_admitted ha) (by decide)
    exact ⟨_, hservice, hexit⟩

/-- Settles O34: 65 is the only sum that the reduction of R85 changes. -/
theorem advanceWrapsAfter64 : Obligations.AdvanceWrapsAfter64 := by
  intro s ha
  obtain ⟨hpos, hframe⟩ := advance_spec s
  refine ⟨advance s, proceed_of_admitted ha _, hpos.trans ?_, hframe⟩
  have hle := ha.pos
  split
  · rename_i h64
    rw [h64]
    rfl
  · rename_i h64
    exact Nat.mod_eq_of_lt (by bv_omega)

/-- Settles O35. -/
theorem prevUpdateStoresTheSample : Obligations.PrevUpdateStoresTheSample :=
  fun s cur ha => proceed_of_admitted ha (prevUpdate cur s)

/-- Settles O36: EDGE_SERVICE is run at the position that POS holds. -/
theorem edgeServiceCapturesThenAdvances : Obligations.EdgeServiceCapturesThenAdvances :=
  fun _ d ped ha h0 => serviceOutcome_capture_advance d ped ha (isPosition_of_ne ha.pos h0)

/-! The iteration -/

/-- The row that the select word of a state names, run as an operation of its own, is the sampler part of an
iteration: the position in its word is the one POS holds, so no row is refused. -/
theorem exec_selectedRow (f r : Bool) {s : State} (ha : Admitted s) :
    exec (decodeSel9 (sel9Word f r s.pos)).instr s = .next (samplerPart (decodeSel9 (sel9Word f r s.pos)) s) := by
  have hservice : ∀ p, s.pos ≠ 0 → p = s.pos →
      serviceOutcome p (sampledData s) s.wires.ped s = .next (serviceAt p (sampledData s) s.wires.ped s) :=
    fun p h0 hp => serviceOutcome_of_isPosition _ _ ha (hp ▸ isPosition_of_ne ha.pos h0)
  have hrow := decodeSel9_rows f r s.pos ha.pos
  revert hrow
  cases decodeSel9 (sel9Word f r s.pos) with
  | syncExit _ => exact fun _ => proceed_of_admitted ha _
  | syncHold _ => exact fun _ => proceed_of_admitted ha _
  | noEdge _ _ => exact fun _ => proceed_of_admitted ha _
  | capturePedal _ => exact fun ⟨h0, _, hp⟩ => hservice _ h0 hp
  | captureFiller _ _ => exact fun ⟨h0, _, hp⟩ => hservice _ h0 hp
  | captureKeyHi _ _ => exact fun ⟨h0, _, hp⟩ => hservice _ h0 hp
  | captureKeyLo _ _ => exact fun ⟨h0, _, hp⟩ => hservice _ h0 hp
  | unreachablePos _ _ => exact False.elim

theorem prevUpdate_admitted (cur : Lines) {s : State} (h : Admitted s) : Admitted (prevUpdate cur s) :=
  h.of_eq rfl h.pos h.wr h.rd

/-- Settles O6: every part is run in an admitted state, because the part before it keeps the state admitted. -/
theorem iterationRunsTheSelectedOperation : Obligations.IterationRunsTheSelectedOperation := by
  intro s w ha
  have hclear : Admitted (clearWires s) := ha.of_eq rfl ha.pos ha.wr ha.rd
  have hsample : Admitted (sample w (clearWires s)) := ha.of_eq rfl ha.pos ha.wr ha.rd
  have hedges : Admitted (sampled w s) := sampled_admitted w s ha
  have hrow : Admitted (samplerPart (decodeSel9 (samplerWord (sampled w s))) (sampled w s)) := by
    rw [samplerPart_sampled w s ha.pos]
    exact sampledPart_admitted w s ha
  exact ⟨_, _, _, _, _, proceed_of_admitted hclear _, proceed_of_admitted hsample _, exec_selectedRow _ _ hedges,
    proceed_of_admitted hrow _, proceed_of_admitted (prevUpdate_admitted _ hrow) _, proceed_of_admitted ha _⟩

/-- Without a change on the lines there is no edge, and no row of the sampler does anything. -/
theorem sampledPart_of_unchanged {w : In5} {s : State} (h : inLines w = s.prev) : sampledPart w s = sampled w s := by
  have hclock : (w.getLsbD 0 && !s.prev.getLsbD 0) = false := by
    rw [← h, inLines_bit w 0 (by decide), Bool.and_not_self]
  have hsync : (s.prev.getLsbD 2 && !w.getLsbD 2) = false := by
    rw [← h, inLines_bit w 2 (by decide), Bool.and_not_self]
  unfold sampledPart
  rw [hclock, hsync]
  exact ite_self _

/-- Without a change on the lines only the scheduler is left of an iteration. -/
theorem iteration_of_unchanged {w : In5} {s : State} (ha : Admitted s) (h : inLines w = s.prev) :
    iteration w s = txSched (inReady w) (sampled w s) := by
  rw [iteration_eq w s ha.pos, sampledPart_of_unchanged h, h]
  rfl

/-- Behind an open gate with the transmitter ready the scheduler clears EVENT or sends a byte. -/
theorem txSched_of_open {r : Bool} {s : State} (h : gateOpen s = true ∧ r = true) :
    (txSched r s).event = false ∨ (txSched r s).txLog ≠ s.txLog := by
  rw [txSched_eq, if_pos h]
  split
  · exact .inl rfl
  · exact .inr (by simp [txByte])

theorem txSched_of_closed {r : Bool} {s : State} (h : ¬ (gateOpen s = true ∧ r = true)) :
    txSched r s = portQuiet s := by
  rw [txSched_eq, if_neg h]

/-- The wires and the port are no state of the block. -/
theorem portQuiet_setWires_quiet (v : Wires) (s : State) :
    SameBlock s (portQuiet (setWires v s)) ∧ (portQuiet (setWires v s)).txLog = s.txLog := by
  simp [SameBlock, SameQueue]

/-- Settles O8: PREV shows a change on the lines, EVENT or TXLOG a scheduler that ran; without both nothing of the
block is written. -/
theorem quietIterationsAreThoseWithoutChange : Obligations.QuietIterationsAreThoseWithoutChange := by
  intro s t w ha ht
  obtain ⟨-, rfl⟩ := exec_iteration_eq_next ht
  have hopen : gateOpen (sampled w s) = true ∧ inReady w = true ↔
      s.event = true ∧ s.idle = true ∧ s.pos ≠ 0 ∧ w.getLsbD 4 = true := by
    rw [gateOpen_iff, and_assoc, and_assoc]
    rfl
  rw [← hopen]
  constructor
  · rintro ⟨⟨-, -, -, -, hprev, hevent, -⟩, hlog⟩
    have hlines : inLines w = s.prev := (iteration_prev w ha).symm.trans hprev
    refine ⟨hlines, fun hrun => ?_⟩
    rw [iteration_of_unchanged ha hlines] at hevent hlog
    rcases txSched_of_open hrun with hcleared | hsent
    · have hset : s.event = true := (hopen.1 hrun).1
      exact Bool.noConfusion (hset.symm.trans (hevent.symm.trans hcleared))
    · exact hsent hlog
  · rintro ⟨hlines, hquiet⟩
    rw [iteration_of_unchanged ha hlines, txSched_of_closed hquiet, sampled_frame]
    exact portQuiet_setWires_quiet _ s

/-! The step -/

theorem decode_in5_setWidth (w : In5) : decode .in5 [w.setWidth 8] = .ok (decodeIn5 w) := by
  have hbyte : w.setWidth 8 = 0#3 ++ w := by
    rw [← ofNat_toNat_eq_append, BitVec.ofNat_toNat]
  rw [hbyte]
  exact (decode_in5_iff 0 w _).2 ⟨rfl, rfl⟩

theorem step_of_levels {s : State} {w : In5} {rest : List Stimulus} (h : s.trace = .levels w :: rest) :
    step s = exec (decodeIn5 w) { s with trace := rest, tick := s.tick + 1 } := by
  simp [step, nextStimulus, takeStimulus, setTrace, setTick, h]

/-- Settles O5. -/
theorem stepRunsTheDecodedWord : Obligations.StepRunsTheDecodedWord := by
  intro s w rest i htrace hword
  obtain rfl : decodeIn5 w = i := Except.ok.inj ((decode_in5_setWidth w).symm.trans hword)
  exact step_of_levels htrace

end Sys2Proof.Machine
end

section
/-! SUPPORT. What a capture does to the key table bit by bit, and the bits that a pass has not reached
(spec/41_transition_detector.md R101, R102). -/

namespace Sys2Proof.Machine

/-- The byte that BIT_STORE ORs in holds the data bit at one place. -/
theorem bitByte_shift_bit (d : Bool) (i j : Nat) (hi : i < 8) :
    (bitByte d <<< i).getLsbD j = (d && decide (j = i)) := by
  have hone : (bitByte d).getLsbD (j - i) = (d && decide (j - i = 0)) := by
    cases d <;> simp [bitByte]
  rw [BitVec.getLsbD_shiftLeft, hone]
  grind

theorem bitOf_lt (p : Position) : bitOf p < 8 := Nat.mod_lt _ (by decide)

/-- The table after a capture, bit by bit. -/
theorem Captured.ktBit_eq {p : Position} {d ped : Bool} {old live : Byte} {s t : State}
    (h : Captured p d ped old live s t) (q : Nat) :
    ktBit t q =
      if q / 8 = blockOf p then live.getLsbD (q % 8) || (d && decide (q % 8 = bitOf p)) else ktBit s q := by
  unfold ktBit
  split
  · rename_i hblock
    rw [hblock, h.stored, BitVec.getLsbD_or, bitByte_shift_bit d _ _ (bitOf_lt p)]
  · rename_i hblock
    rw [h.others _ hblock]

/-- In the block of its position a capture stores beside the earlier bits of the pass. -/
theorem LiveByte.bit_behind {s : State} {p : Position} {v : Byte} {q : Nat} (h : LiveByte s p v) (h1 : 1 ≤ q)
    (hq : q < p.toNat) (hblock : q / 8 = blockOf p) : v.getLsbD (q % 8) = ktBit s q := by
  unfold blockOf at hblock
  have hno : ¬ SnapshotAt s.cfg p := by
    rintro (h8 | ⟨rfl, -⟩)
    · omega
    · have hone : (1 : Position).toNat = 1 := rfl
      omega
  rw [h.2 hno, ← hblock]
  rfl

section
variable {s : State} (hfirst : s.cfg.firstBlockSnapshot = true) (h0 : s.pos ≠ 0) (hclear : ClearedAhead s)
include hfirst h0 hclear

/-- The byte that a capture at POS stores into holds nothing at POS and ahead of it: it has just been cleared, or it
was cleared at the first position of the block. -/
theorem LiveByte.bit_ahead {v : Byte} {i : Nat} (h : LiveByte s s.pos v) (hi : bitOf s.pos ≤ i) :
    v.getLsbD i = false := by
  by_cases hsnap : SnapshotAt s.cfg s.pos
  · rw [h.1 hsnap]
    exact BitVec.getLsbD_zero
  · rw [h.2 hsnap]
    have hmod : s.pos.toNat % 8 ≠ 0 := fun e => hsnap (.inl e)
    have hne1 : s.pos ≠ 1 := fun e => hsnap (.inr ⟨e, hfirst⟩)
    rcases Nat.lt_or_ge i 8 with hlt | hge
    · unfold bitOf at hi
      have hbit := hclear h0 hne1 hmod (8 * (s.pos.toNat / 8) + i) (by omega) (by omega)
      unfold ktBit at hbit
      rwa [show (8 * (s.pos.toNat / 8) + i) / 8 = s.pos.toNat / 8 by omega,
        show (8 * (s.pos.toNat / 8) + i) % 8 = i by omega] at hbit
    · exact BitVec.getLsbD_of_ge _ _ hge

variable (d ped : Bool) (ha : Admitted s)
include ha

theorem capture_ktBit_at : ktBit (capture s.pos d ped s) s.pos.toNat = d := by
  obtain ⟨old, live, hl, hcap⟩ := capture_captured s.pos d ped ha (isPosition_of_ne ha.pos h0)
  rw [hcap.ktBit_eq, if_pos (show s.pos.toNat / 8 = blockOf s.pos from rfl),
    hl.bit_ahead hfirst h0 hclear (i := s.pos.toNat % 8) le_rfl]
  simp [bitOf]

theorem capture_ktBit_ahead {q : Nat} (hq : s.pos.toNat < q) (hblock : q / 8 = blockOf s.pos) :
    ktBit (capture s.pos d ped s) q = false := by
  obtain ⟨old, live, hl, hcap⟩ := capture_captured s.pos d ped ha (isPosition_of_ne ha.pos h0)
  have hlater : bitOf s.pos < q % 8 := by
    unfold blockOf at hblock
    unfold bitOf
    omega
  rw [hcap.ktBit_eq, if_pos hblock, hl.bit_ahead hfirst h0 hclear hlater.le, decide_eq_false hlater.ne',
    Bool.and_false, Bool.or_false]

end

/-- A capture leaves the bits of the positions before its own, whatever block they are in. -/
theorem capture_ktBit_behind {s : State} {p : Position} (d ped : Bool) (ha : Admitted s) (hp : isPosition p) {q : Nat}
    (h1 : 1 ≤ q) (hq : q < p.toNat) : ktBit (capture p d ped s) q = ktBit s q := by
  obtain ⟨old, live, hl, hcap⟩ := capture_captured p d ped ha hp
  rw [hcap.ktBit_eq]
  split
  · rename_i hblock
    have hearlier : q % 8 ≠ bitOf p := by
      unfold blockOf at hblock
      unfold bitOf
      omega
    rw [hl.bit_behind h1 hq hblock, decide_eq_false hearlier, Bool.and_false, Bool.or_false]
  · rfl

theorem serviceAt_pos_toNat {s : State} (p : Position) (d ped : Bool) (ha : Admitted s) (hp : isPosition p) :
    (serviceAt p d ped s).pos.toNat = (s.pos.toNat + 1) % 65 := by
  rw [serviceAt_pos p d ped ha hp, BitVec.toNat_ofNat]
  omega

/-- ADVANCE writes no bit of the table. -/
theorem serviceAt_ktBit (p : Position) (d ped : Bool) (s : State) (q : Nat) :
    ktBit (serviceAt p d ped s) q = ktBit (capture p d ped s) q := rfl

theorem serviceAt_clearedAhead {s : State} (d ped : Bool) (hfirst : s.cfg.firstBlockSnapshot = true) (ha : Admitted s)
    (h0 : s.pos ≠ 0) (hclear : ClearedAhead s) : ClearedAhead (serviceAt s.pos d ped s) := by
  intro _ _ hmod q hq hblock
  have hle := ha.pos
  rw [serviceAt_pos_toNat s.pos d ped ha (isPosition_of_ne ha.pos h0)] at hmod hq hblock
  rw [serviceAt_ktBit]
  exact capture_ktBit_ahead hfirst h0 hclear d ped ha (by omega) (by unfold blockOf; omega)

/-- Only POS and the table matter. -/
theorem ClearedAhead.of_eq {s t : State} (h : ClearedAhead s) (hpos : t.pos = s.pos) (hkt : t.kt = s.kt) :
    ClearedAhead t := by
  unfold ClearedAhead ktBit ktByte
  rw [hpos, hkt]
  exact h

/-- At POS 1 the pass is about to clear the block. -/
theorem clearedAhead_of_pos_one {s : State} (h : s.pos = 1) : ClearedAhead s := fun _ h1 => absurd h h1

theorem clearedAhead_of_pos_zero {s : State} (h : s.pos = 0) : ClearedAhead s := fun h0 => absurd h h0

theorem syncExit_clearedAhead {s : State} (r d ped : Bool) (hfirst : s.cfg.firstBlockSnapshot = true)
    (ha : Admitted s) : ClearedAhead (syncExit r d ped s) := by
  have hone : ClearedAhead (setPos 1 s) := clearedAhead_of_pos_one rfl
  unfold syncExit
  split
  · exact serviceAt_clearedAhead (s := setPos 1 s) d ped hfirst (setPos_one_admitted ha) (by simp) hone
  · exact hone

theorem sampledPart_clearedAhead (w : In5) {s : State} (hfirst : s.cfg.firstBlockSnapshot = true) (ha : Admitted s)
    (h : ClearedAhead s) : ClearedAhead (sampledPart w s) := by
  have hs := sampled_admitted w s ha
  have hsampled : ClearedAhead (sampled w s) := h
  unfold sampledPart
  split
  · split
    · exact syncExit_clearedAhead _ _ _ hfirst hs
    · exact hsampled
  · rename_i h0
    split
    · exact serviceAt_clearedAhead (s := sampled w s) _ _ hfirst hs h0 hsampled
    · exact hsampled

theorem iteration_kt (w : In5) {s : State} (ha : Admitted s) : (iteration w s).kt = (sampledPart w s).kt := by
  rw [iteration_eq w s ha.pos, txSched_kt]
  rfl

/-- Settles O27: a serviced edge keeps the bits ahead of POS clear within a block, and a new block's byte is cleared
before its first bit is stored. -/
theorem stepKeepsTheBlockClearedAhead : Obligations.StepKeepsTheBlockClearedAhead := by
  intro s t _ hfirst h ht
  obtain ⟨w, -, ha, rfl⟩ | ⟨-, -, rfl⟩ := step_cases ht
  · have ha' := takeStimulus_admitted ha
    have hpart := sampledPart_clearedAhead w (s := takeStimulus s) hfirst ha' h
    exact hpart.of_eq (iteration_pos w ha') (iteration_kt w ha')
  · exact clearedAhead_of_pos_zero rfl

end Sys2Proof.Machine
end

section
/-! SUPPORT. The Transition Detector's rows run as operations of their own (spec/41_transition_detector.md R101 to
R106). -/

namespace Sys2Proof.Machine

theorem not_isPosition_iff (p : Position) : ¬ isPosition p ↔ p = 0 ∨ 64 < p.toNat := by
  have hzero : p = 0 ↔ p.toNat = 0 := BitVec.toNat_eq
  rw [hzero]
  unfold isPosition
  omega

/-- Settles O20: each guard fails. -/
theorem capturesOutsidePositionsAreRefused : Obligations.CapturesOutsidePositionsAreRefused := by
  refine fun s p d ped e => ⟨fun hp => ?_, fun hpos => ?_, fun hkey => ?_⟩
  · exact if_neg ((not_isPosition_iff p).2 hp)
  · exact if_neg ((not_isPosition_iff s.pos).2 hpos)
  · exact if_neg (Bool.eq_false_iff.1 hkey)

/-- Settles O38: both rows are BLOCK_SNAPSHOT of their block. -/
theorem snapshotMovesAndClearsTheByte : Obligations.SnapshotMovesAndClearsTheByte := by
  intro s i b ha hi
  have hrow : exec i s = .next (blockSnapshot b s) := by
    rcases hi with rfl | ⟨rfl, rfl⟩ <;> exact proceed_of_admitted ha _
  obtain ⟨hsnap, hkt, hframe⟩ := blockSnapshot_spec b s b.isLt
  exact ⟨_, hrow, hsnap, (hkt b).trans (if_pos rfl), fun c hc => (hkt c).trans (if_neg hc), hframe⟩

/-- Settles O39. -/
theorem bitStoreOrsTheBit : Obligations.BitStoreOrsTheBit := by
  intro s b k d ha
  obtain ⟨hkt, hframe⟩ := bitStore_spec b k d s b.isLt
  refine ⟨bitStore b k d s, proceed_of_admitted ha _, fun j => ?_, fun c hc => (hkt c).trans (if_neg hc), hframe⟩
  rw [hkt, if_pos rfl, BitVec.getLsbD_or, bitByte_shift_bit d k j k.isLt]

/-- Settles O45. -/
theorem idleMarkSetsIdleOnly : Obligations.IdleMarkSetsIdleOnly :=
  fun s _ ha => ⟨proceed_of_admitted ha (idleMark s), proceed_of_admitted ha (idleMark s)⟩

/-- Settles O46. -/
theorem validKeyIsTheKeyRange : Obligations.ValidKeyIsTheKeyRange := by
  intro s p ha
  have hrange : validKey p = decide ((1 ≤ p.toNat ∧ p.toNat ≤ 31) ∨ (34 ≤ p.toNat ∧ p.toNat ≤ 63)) := by
    rw [Bool.eq_iff_iff, validKey_iff, decide_eq_true_iff]
  rw [← hrange]
  exact proceed_of_admitted ha _

/-- The premise under which the statements name the note of a key position: NOTE has that value there (R120). -/
theorem note_of_formula {p : Position} {t : Int} {n : BitVec 7}
    (h : (1 ≤ p.toNat ∧ p.toNat ≤ 31 ∧ (n.toNat : Int) = t + 98 - 2 * p.toNat) ∨
      (34 ≤ p.toNat ∧ p.toNat ≤ 63 ∧ (n.toNat : Int) = t + 101 - 2 * (p.toNat - 31))) :
    validKey p = true ∧ note p t = some (n.toNat : Int) := by
  rcases h with ⟨h1, h2, hn⟩ | ⟨h1, h2, hn⟩
  · exact ⟨(validKey_iff p).2 (.inl ⟨h1, h2⟩), hn ▸ note_lo h1 h2 t⟩
  · exact ⟨(validKey_iff p).2 (.inr ⟨h1, h2⟩), hn ▸ note_hi h1 h2 t⟩

/-- Settles O43: the row runs because POS holds a key position, and there NOTE has a value. -/
theorem keyTransitionSetsFlagsAndEnqueues : Obligations.KeyTransitionSetsFlagsAndEnqueues := by
  intro s e n ha hkey
  obtain ⟨hvalid, hnote⟩ := note_of_formula hkey
  obtain ⟨hoffered, hframe, -⟩ := keyTransition_spec s.pos (sampledData s) s n ha hnote
  exact ⟨_, (if_pos hvalid).trans (proceed_of_admitted ha _), hframe, hoffered⟩

/-- Settles O44. -/
theorem pedalSlotEnqueuesOnChange : Obligations.PedalSlotEnqueuesOnChange := by
  intro s x ha
  obtain ⟨hprev, hsame, hchange, -⟩ := pedalSlot_spec s.wires.ped s ha
  refine ⟨pedalSlot s.wires.ped s, proceed_of_admitted ha _, hprev, fun h => ?_, fun h => ?_⟩
  · rw [hprev]
    exact hsame h
  · obtain ⟨hoffered, hframe⟩ := hchange h
    rw [hprev]
    exact ⟨hframe, hoffered⟩

/-! CAPTURE (R100), by the position -/

theorem exec_capture {s : State} {p : Position} (d ped : Bool) (ha : Admitted s) (hp : isPosition p) :
    exec (.capture p d ped) s = .next (capture p d ped s) :=
  (if_pos hp).trans (proceed_of_admitted ha _)

/-- A key position is a position, and not the pedal's. -/
theorem isPosition_of_validKey {p : Position} (h : validKey p = true) : isPosition p ∧ p ≠ 64 := by
  rw [validKey_iff] at h
  refine ⟨by unfold isPosition; omega, ?_⟩
  rintro rfl
  simp at h

/-- Settles O40: the third arm of a capture is taken on an unchanged bit, the first on a changed one. -/
theorem captureAtAKeyPosition : Obligations.CaptureAtAKeyPosition := by
  intro s p d ped old live n ha hkey ho hl
  obtain ⟨hvalid, hnote⟩ := note_of_formula hkey
  obtain ⟨hp, h64⟩ := isPosition_of_validKey hvalid
  have hcap := capture_spec p d ped s old live ha hp ho hl
  refine ⟨_, exec_capture d ped ha hp, hcap.snap, hcap.stored, hcap.others, fun hsame => ?_, fun hchange => ?_⟩
  · rcases hcap.arms with ⟨-, hne, -⟩ | ⟨hpedal, -⟩ | ⟨-, -, hframe⟩
    · exact absurd hsame hne
    · exact absurd hpedal h64
    · exact hframe
  · rcases hcap.arms with ⟨-, -, m, hm, hoffered, hframe⟩ | ⟨hpedal, -⟩ | ⟨-, hsame, -⟩
    · have hmn : (m.toNat : Int) = n.toNat := Option.some.inj (hm.symm.trans hnote)
      obtain rfl : m = n := BitVec.eq_of_toNat_eq (Int.ofNat.inj hmn)
      exact ⟨hframe, hoffered⟩
    · exact absurd hpedal h64
    · exact absurd (hsame hvalid) hchange

/-- Settles O41: a filler position is neither a key position nor the pedal's. -/
theorem captureAtAFillerPosition : Obligations.CaptureAtAFillerPosition := by
  intro s p d ped old live ha hfiller ho hl
  obtain ⟨hp, hblock, hnokey, h64⟩ : isPosition p ∧ blockOf p = 4 ∧ validKey p = false ∧ p ≠ 64 := by
    rcases hfiller with rfl | rfl <;> decide
  have hcap := capture_spec p d ped s old live ha hp ho hl
  refine ⟨_, exec_capture d ped ha hp, hcap.snap, hblock ▸ hcap.stored, hblock ▸ hcap.others, ?_⟩
  rcases hcap.arms with ⟨hvalid, -⟩ | ⟨hpedal, -⟩ | ⟨-, -, hframe⟩
  · exact absurd hvalid (Bool.eq_false_iff.1 hnokey)
  · exact absurd hpedal h64
  · exact hframe

/-- Settles O42: 64 is the first position of its block, so the byte is cleared before the bit is stored; then the
second arm of a capture is taken. -/
theorem captureAtThePedalPosition : Obligations.CaptureAtThePedalPosition := by
  intro s d ped ha
  have hsnap : SnapshotAt s.cfg 64 := .inl (by decide)
  have hcap := capture_spec 64 d ped s (ktByte s 8) 0 ha (by decide) ⟨fun _ => rfl, fun h => absurd hsnap h⟩
    ⟨fun _ => rfl, fun h => absurd hsnap h⟩
  have hstored : ktByte (capture 64 d ped s) 8 = bitByte d := by
    refine hcap.stored.trans ?_
    cases d <;> rfl
  rcases hcap.arms with ⟨hvalid, -⟩ | ⟨-, hprev, hslot⟩ | ⟨h64, -⟩
  · exact absurd hvalid (by decide)
  · refine ⟨_, exec_capture d ped ha (by decide), hcap.snap, hstored, hcap.others, hprev, fun hsame => ?_,
      fun hchange => ?_⟩
    · rcases hslot with ⟨-, hframe⟩ | ⟨hne, -⟩
      · exact hframe
      · exact absurd hsame hne
    · rcases hslot with ⟨heq, -⟩ | ⟨-, hoffered, hframe⟩
      · exact absurd heq hchange
      · exact ⟨hframe, hoffered⟩
  · exact absurd rfl h64

end Sys2Proof.Machine
end

section
/-! SUPPORT. The bits of a pass, two samples each, from POS 1 on: what each leaves in the table, and what it is compared
with (spec/40_frame_sampler.md R88, spec/41_transition_detector.md R107). -/

namespace Sys2Proof.Machine

/-! A run of several steps -/

theorem run_succ_of_step {M : Host.Core} {s t : M.State} (h : M.step s = .next t) (k : Nat) :
    M.run (k + 1) s = M.run k t := by
  rw [Host.Core.run, h]

theorem run_add_of_run {M : Host.Core} {m : Nat} {s t : M.State} (h : M.run m s = .next t) (k : Nat) :
    M.run (m + k) s = M.run k t := by
  induction m generalizing s with
  | zero =>
    obtain rfl := Host.Outcome.next.inj h
    rw [Nat.zero_add]
  | succ m ih =>
    rw [Nat.add_right_comm]
    rw [Host.Core.run] at h ⊢
    cases hs : M.step s with
    | next u =>
      rw [hs] at h
      exact ih h
    | fault r =>
      rw [hs] at h
      exact nomatch h
    | refused r =>
      rw [hs] at h
      exact nomatch h

/-! One bit of a pass: a sample with the clock low, and one with the clock high that services its rise -/

/-- POS, the key table, the byte of the previous pass and the configuration: what the Transition Detector keeps of a
pass. -/
def SameTable (s t : State) : Prop := t.pos = s.pos ∧ t.kt = s.kt ∧ t.snap = s.snap ∧ t.cfg = s.cfg

theorem SameTable.refl (s : State) : SameTable s s := ⟨rfl, rfl, rfl, rfl⟩

theorem SameTable.trans {s t u : State} (h : SameTable s t) (h' : SameTable t u) : SameTable s u := by
  obtain ⟨hpos, hkt, hsnap, hcfg⟩ := h
  obtain ⟨hpos', hkt', hsnap', hcfg'⟩ := h'
  exact ⟨hpos'.trans hpos, hkt'.trans hkt, hsnap'.trans hsnap, hcfg'.trans hcfg⟩

/-- Taking a move leaves the table. -/
theorem takeStimulus_sameTable (s : State) : SameTable s (takeStimulus s) := SameTable.refl s

/-- SAMPLE and EDGE_DETECT leave the table. -/
theorem sampled_sameTable (w : In5) (s : State) : SameTable s (sampled w s) := by
  rw [sampled_frame]
  exact SameTable.refl s

/-- PREV_UPDATE and TX_SCHED leave the table. -/
theorem iteration_sameTable (w : In5) {s : State} (ha : Admitted s) : SameTable (sampledPart w s) (iteration w s) := by
  rw [iteration_eq w s ha.pos, txSched_frame]
  exact SameTable.refl _

/-- A serviced edge takes no move of the environment. -/
theorem serviceAt_trace {s : State} (p : Position) (d ped : Bool) (ha : Admitted s) (hp : isPosition p) :
    (serviceAt p d ped s).trace = s.trace := by
  obtain ⟨_, _, -, hcap⟩ := capture_captured p d ped ha hp
  show (capture p d ped s).trace = s.trace
  rw [hcap.frame]

theorem iteration_trace (w : In5) {s : State} (ha : Admitted s) (h0 : s.pos ≠ 0) :
    (iteration w s).trace = s.trace := by
  rw [iteration_eq w s ha.pos, txSched_frame]
  show (sampledPart w s).trace = s.trace
  rw [sampledPart_of_ne_zero w h0]
  split
  · exact serviceAt_trace _ _ _ (sampled_admitted w s ha) (isPosition_of_ne ha.pos h0)
  · rfl

/-- A step on a levels move, away from POS 0. -/
theorem step_of_trace {s : State} {w : In5} {rest : List Stimulus} (ha : Admitted s) (h0 : s.pos ≠ 0)
    (h : s.trace = .levels w :: rest) :
    ∃ t, step s = .next t ∧ t = iteration w (takeStimulus s) ∧ t.trace = rest ∧ Admitted t := by
  have ha' := takeStimulus_admitted ha
  have hnext : nextStimulus s = .levels w := by simp [nextStimulus, h]
  have hstep : step s = .next (iteration w (takeStimulus s)) := by
    unfold step
    rw [hnext]
    exact proceed_of_admitted ha' _
  have hrest : (takeStimulus s).trace = rest := by simp [takeStimulus, h]
  exact ⟨_, hstep, rfl, (iteration_trace w ha' h0).trans hrest, iteration_admitted w _ ha'⟩

/-- A sample with the clock low services nothing. -/
theorem iteration_clock_low {w : In5} {s : State} (ha : Admitted s) (h0 : s.pos ≠ 0) (hw : w.getLsbD 0 = false) :
    SameTable s (iteration w s) := by
  have hkept := iteration_sameTable w ha
  rw [sampledPart_of_ne_zero w h0, hw] at hkept
  exact hkept

/-- A sample with the clock high after one with it low services the data bit at POS. -/
theorem iteration_clock_rise {w : In5} {s : State} (ha : Admitted s) (h0 : s.pos ≠ 0) (hw : w.getLsbD 0 = true)
    (hprev : s.prev.getLsbD 0 = false) :
    SameTable (serviceAt s.pos (inData w) (pedalBit s.cfg w) (sampled w s)) (iteration w s) := by
  have hkept := iteration_sameTable w ha
  rw [sampledPart_of_ne_zero w h0, hw, hprev] at hkept
  exact hkept

theorem in5Word_clock : ∀ c d y p r : Bool, (in5Word c d y p r).getLsbD 0 = c := by
  decide

theorem in5Word_data : ∀ c d y p r : Bool, inData (in5Word c d y p r) = d := by
  decide

/-- The first step of a bit. -/
theorem step_clock_low {s : State} {d p r : Bool} {rest : List Stimulus} (ha : Admitted s) (h0 : s.pos ≠ 0)
    (h : s.trace = traceIn false d false p r :: rest) :
    ∃ t, step s = .next t ∧ t.trace = rest ∧ Admitted t ∧ SameTable s t ∧ t.prev.getLsbD 0 = false := by
  obtain ⟨t, hstep, ht, hrest, hta⟩ := step_of_trace ha h0 h
  have ha' := takeStimulus_admitted ha
  have htable := iteration_clock_low (s := takeStimulus s) ha' h0 (in5Word_clock false d false p r)
  have hprev := iteration_prev (in5Word false d false p r) ha'
  rw [← ht] at htable hprev
  refine ⟨t, hstep, hrest, hta, htable, ?_⟩
  rw [hprev, inLines_bit _ 0 (by decide), in5Word_clock]

/-- The second step of a bit services it at POS; `u` is the state that the capture sees. -/
theorem step_clock_rise {s : State} {d p r : Bool} {rest : List Stimulus} (ha : Admitted s) (h0 : s.pos ≠ 0)
    (hprev : s.prev.getLsbD 0 = false) (h : s.trace = traceIn true d false p r :: rest) :
    ∃ u t ped, step s = .next t ∧ t.trace = rest ∧ Admitted t ∧ Admitted u ∧ SameTable s u ∧
      SameTable (serviceAt u.pos d ped u) t := by
  obtain ⟨t, hstep, ht, hrest, hta⟩ := step_of_trace ha h0 h
  have ha' := takeStimulus_admitted ha
  have htable := iteration_clock_rise (s := takeStimulus s) ha' h0 (in5Word_clock true d false p r) hprev
  rw [← ht, in5Word_data] at htable
  have hsampled := (takeStimulus_sameTable s).trans (sampled_sameTable (in5Word true d false p r) (takeStimulus s))
  exact ⟨_, t, _, hstep, hrest, hta, sampled_admitted _ _ ha', hsampled, htable⟩

/-- The two steps of a bit. -/
theorem run_traceBit {s : State} {d p r : Bool} {rest : List Stimulus} (ha : Admitted s) (h0 : s.pos ≠ 0)
    (h : s.trace = traceBit d p r ++ rest) :
    ∃ u t ped, core.run 2 s = .next t ∧ t.trace = rest ∧ Admitted t ∧ Admitted u ∧ SameTable s u ∧
      SameTable (serviceAt u.pos d ped u) t := by
  obtain ⟨v, hlow, hv, hva, hsv, hprev⟩ := step_clock_low ha h0 h
  obtain ⟨u, t, ped, hhigh, ht, hta, hua, hvu, hut⟩ := step_clock_rise hva (hsv.1 ▸ h0) hprev hv
  have hrun : core.run 2 s = .next t :=
    (run_succ_of_step (M := core) hlow 1).trans (run_succ_of_step (M := core) hhigh 0)
  exact ⟨u, t, ped, hrun, ht, hta, hua, hsv.trans hvu, hut⟩

/-! The whole pass -/

/-- A pass that began in `s` at POS 1 has stored the bits `ds`, one at each position, and stands in `t`. Block `b` is
reached at its first serviced position, `8 b`, or 1 for block 0. -/
structure PassReached (s : State) (ds : List Bool) (t : State) : Prop where
  admitted : Admitted t
  cfg : t.cfg = s.cfg
  pos : t.pos.toNat = (ds.length + 1) % 65
  ahead : ClearedAhead t
  /-- The bits stored stay. -/
  recorded : ∀ j, j < ds.length → some (ktBit t (j + 1)) = ds[j]?
  /-- A block not yet reached is as it was. -/
  untouched : ∀ b, ds.length < max 1 (8 * b) → ktByte t b = ktByte s b
  /-- The byte the next capture compares with is the one its block had. -/
  compared : t.pos ≠ 0 → ∀ v, PreviousByte t t.pos v → v = ktByte s (blockOf t.pos)

theorem PassReached.of_sameTable {s t u : State} {ds : List Bool} (h : PassReached s ds t) (ha : Admitted u)
    (hu : SameTable t u) : PassReached s ds u := by
  obtain ⟨hpos, hkt, hsnap, hcfg⟩ := hu
  have hbyte : ∀ b, ktByte u b = ktByte t b := fun b => by rw [ktByte, hkt, ktByte]
  refine ⟨ha, hcfg.trans h.cfg, hpos ▸ h.pos, h.ahead.of_eq hpos hkt, fun j hj => ?_, fun b hb => ?_, fun h0 v hv => ?_⟩
  · rw [← h.recorded j hj, ktBit, hbyte, ktBit]
  · rw [hbyte, h.untouched b hb]
  · unfold PreviousByte at hv
    rw [hpos, hcfg, hsnap, hbyte] at hv
    rw [hpos] at h0 ⊢
    exact h.compared h0 v hv

theorem passReached_start {s : State} (ha : Admitted s) (hfirst : s.cfg.firstBlockSnapshot = true) (h1 : s.pos = 1) :
    PassReached s [] s where
  admitted := ha
  cfg := rfl
  pos := by rw [h1]; rfl
  ahead := clearedAhead_of_pos_one h1
  recorded _ hj := absurd hj (Nat.not_lt_zero _)
  untouched _ _ := rfl
  compared _ _ hv := hv.1 (.inr ⟨h1, hfirst⟩)

/-! One more bit of the pass -/

section
variable {s t : State} {ds : List Bool} (h : PassReached s ds t) (hlen : ds.length < 64)
include h hlen

theorem PassReached.pos_eq : t.pos.toNat = ds.length + 1 := by
  rw [h.pos]
  omega

theorem PassReached.pos_ne_zero : t.pos ≠ 0 := by
  intro e
  have hpos := h.pos_eq hlen
  rw [e] at hpos
  exact absurd hpos (by simp)

theorem PassReached.isPosition : isPosition t.pos := isPosition_of_ne h.admitted.pos (h.pos_ne_zero hlen)

variable (d ped : Bool)

theorem PassReached.serviced_pos : (serviceAt t.pos d ped t).pos.toNat = (ds.length + 2) % 65 := by
  rw [serviceAt_pos_toNat t.pos d ped h.admitted (h.isPosition hlen), h.pos_eq hlen]

/-- The blocks ahead of POS are not touched by the capture either. -/
theorem PassReached.serviced_untouched {b : Nat} (hb : ds.length + 1 < max 1 (8 * b)) :
    ktByte (serviceAt t.pos d ped t) b = ktByte s b := by
  obtain ⟨_, _, -, hcap⟩ := capture_captured t.pos d ped h.admitted (h.isPosition hlen)
  have hpos := h.pos_eq hlen
  have hblock : b ≠ blockOf t.pos := by
    unfold blockOf
    omega
  exact (hcap.others b hblock).trans (h.untouched b (by omega))

/-- At the first position of a block the live byte is still the previous pass's; in a block SNAP keeps it. -/
theorem PassReached.serviced_compared (h0 : (serviceAt t.pos d ped t).pos ≠ 0) {v : Byte}
    (hv : PreviousByte (serviceAt t.pos d ped t) (serviceAt t.pos d ped t).pos v) :
    v = ktByte s (blockOf (serviceAt t.pos d ped t).pos) := by
  have hpos := h.pos_eq hlen
  have hadmitted := serviceAt_admitted t.pos d ped t h.admitted (h.isPosition hlen)
  have hnext : (serviceAt t.pos d ped t).pos.toNat = ds.length + 2 := by
    have hmod := h.serviced_pos hlen d ped
    have hpositive := (isPosition_of_ne hadmitted.pos h0).1
    omega
  by_cases h8 : (ds.length + 2) % 8 = 0
  · rw [hv.1 (.inl (hnext ▸ h8))]
    refine h.serviced_untouched hlen d ped ?_
    omega
  · have hno : ¬ SnapshotAt (serviceAt t.pos d ped t).cfg (serviceAt t.pos d ped t).pos := by
      rintro (e | ⟨e, -⟩)
      · exact h8 (hnext ▸ e)
      · rw [e] at hnext
        simp at hnext
    have hsame : blockOf (serviceAt t.pos d ped t).pos = blockOf t.pos := by
      unfold blockOf
      omega
    obtain ⟨old, ho⟩ := previousByte_exists t t.pos
    obtain ⟨live, hl⟩ := liveByte_exists t t.pos
    have hcap := capture_spec t.pos d ped t old live h.admitted (h.isPosition hlen) ho hl
    rw [hsame, ← h.compared (h.pos_ne_zero hlen) old ho]
    exact (hv.2 hno).trans hcap.snap

variable (hfirst : s.cfg.firstBlockSnapshot = true)
include hfirst

theorem PassReached.serviced_recorded {j : Nat} (hj : j < ds.length + 1) :
    some (ktBit (serviceAt t.pos d ped t) (j + 1)) = (ds ++ [d])[j]? := by
  have hpos := h.pos_eq hlen
  rw [serviceAt_ktBit]
  rcases Nat.lt_succ_iff_lt_or_eq.1 hj with hj | rfl
  · rw [capture_ktBit_behind d ped h.admitted (h.isPosition hlen) (by omega) (by omega), h.recorded j hj,
      List.getElem?_append_left hj]
  · rw [← hpos, capture_ktBit_at (h.cfg ▸ hfirst) (h.pos_ne_zero hlen) h.ahead d ped h.admitted,
      List.getElem?_concat_length]

theorem PassReached.next_bit : PassReached s (ds ++ [d]) (serviceAt t.pos d ped t) := by
  have hlength : (ds ++ [d]).length = ds.length + 1 := by simp
  constructor
  case admitted => exact serviceAt_admitted t.pos d ped t h.admitted (h.isPosition hlen)
  case cfg => exact (serviceAt_cfg _ _ _ _).trans h.cfg
  case pos => rw [h.serviced_pos hlen, hlength]
  case ahead => exact serviceAt_clearedAhead d ped (h.cfg ▸ hfirst) h.admitted (h.pos_ne_zero hlen) h.ahead
  case recorded => exact fun j hj => h.serviced_recorded hlen d ped hfirst (hlength ▸ hj)
  case untouched => exact fun b hb => h.serviced_untouched hlen d ped (hlength ▸ hb)
  case compared => exact fun h0 v hv => h.serviced_compared hlen d ped h0 hv

end

/-- The bits of a pass, by induction on the bits so far. -/
theorem passReached_run {s : State} {p r : Bool} (ha : Admitted s) (hfirst : s.cfg.firstBlockSnapshot = true)
    (h1 : s.pos = 1) (ds : List Bool) : ∀ rest, ds.length ≤ 64 → s.trace = traceBits ds p r ++ rest →
    ∃ t, core.run (2 * ds.length) s = .next t ∧ t.trace = rest ∧ PassReached s ds t := by
  induction ds using List.reverseRecOn with
  | nil => exact fun rest _ htrace => ⟨s, rfl, htrace, passReached_start ha hfirst h1⟩
  | append_singleton ds d ih =>
    intro rest hlen htrace
    rw [List.length_append, List.length_singleton] at hlen ⊢
    have hsplit : s.trace = traceBits ds p r ++ (traceBit d p r ++ rest) := by
      rw [htrace, traceBits, List.flatMap_append, List.flatMap_singleton, List.append_assoc, traceBits]
    obtain ⟨t, hrun, ht, hreached⟩ := ih _ (by omega) hsplit
    have h0 := hreached.pos_ne_zero (by omega)
    obtain ⟨u, v, ped, hbit, hv, hva, hua, htu, huv⟩ := run_traceBit hreached.admitted h0 ht
    have hserviced := (hreached.of_sameTable hua htu).next_bit (by omega) d ped hfirst
    exact ⟨v, (run_add_of_run hrun 2).trans hbit, hv, hserviced.of_sameTable hva huv⟩

/-- Settles O28: the pass reached after 64 bits. -/
theorem passRecordsEverySampledBit : Obligations.PassRecordsEverySampledBit := by
  intro s ds p r rest hs hfirst h1 hlen htrace
  obtain ⟨t, hrun, ht, hreached⟩ := passReached_run hs.admitted hfirst h1 ds rest hlen.le htrace
  have hpos := hreached.pos
  rw [hlen] at hrun hpos
  exact ⟨t, hrun, BitVec.eq_of_toNat_eq hpos, ht, fun k hk => hreached.recorded k (hlen ▸ hk)⟩

/-- Settles O29: the pass reached after `k` bits, at the byte the next capture compares with. -/
theorem passComparesWithThePreviousPass : Obligations.PassComparesWithThePreviousPass := by
  rintro s ds p r rest k hs hfirst h1 rfl hk htrace
  obtain ⟨t, hrun, -, hreached⟩ := passReached_run hs.admitted hfirst h1 ds rest hk.le htrace
  have hpos := hreached.pos_eq hk
  refine ⟨t, hrun, hpos, fun v hv => ?_⟩
  rw [hreached.compared (hreached.pos_ne_zero hk) v hv, blockOf, hpos]
  rfl

end Sys2Proof.Machine
end

section
/-! SUPPORT. No part of an iteration after the sampling reads the wires but the signals, and a capture reads the pedal
bit at 64 only (spec/41_transition_detector.md R104 (c)). -/

namespace Sys2Proof.Machine

/-- The state with the sampled values of `v` in its wires; the signals raised are its own. -/
def withSamples (v : Wires) (s : State) : State := setWires { v with signals := s.wires.signals } s

/-! Each operation does the same with other sampled values -/

section
variable (v : Wires) (s : State)

theorem enqueue_withSamples (b : Byte) : enqueue b (withSamples v s) = withSamples v (enqueue b s) := by
  have hfull : queueFull (withSamples v s) = queueFull s := rfl
  unfold enqueue
  rw [hfull]
  split <;> rfl

theorem enqueueBytes_withSamples (m : Message) :
    enqueueBytes m (withSamples v s) = withSamples v (enqueueBytes m s) := by
  simp only [enqueueBytes, enqueue_withSamples]

theorem raise_withSamples (g : Signal) : raise g (withSamples v s) = withSamples v (raise g s) := rfl

theorem enqueueMsg_withSamples (m : Message) : enqueueMsg m (withSamples v s) = withSamples v (enqueueMsg m s) := by
  have hfree : queueFree (withSamples v s) = queueFree s := rfl
  have hatomic : (withSamples v s).cfg.enqueueAtomic = s.cfg.enqueueAtomic := rfl
  unfold enqueueMsg
  rw [hfree, hatomic, enqueueBytes_withSamples, raise_withSamples, raise_withSamples]
  split
  · rfl
  · split <;> rfl

theorem keyTransition_withSamples (p : Position) (d : Bool) :
    keyTransition p d (withSamples v s) = withSamples v (keyTransition p d s) := by
  have hflags : flagTransition (withSamples v s) = withSamples v (flagTransition s) := rfl
  have hcfg : (withSamples v s).cfg = s.cfg := rfl
  unfold keyTransition
  rw [hflags, hcfg]
  cases note p s.cfg.transpose with
  | some n => exact enqueueMsg_withSamples v _ _
  | none => rfl

theorem pedalSlot_withSamples (ped : Bool) : pedalSlot ped (withSamples v s) = withSamples v (pedalSlot ped s) := by
  have hflags : flagPedal (withSamples v s) = withSamples v (flagPedal s) := by
    simp only [flagPedal_spec]
    rfl
  have hprev : (withSamples v s).pedalPrev = s.pedalPrev := rfl
  unfold pedalSlot
  rw [hflags, hprev, enqueueMsg_withSamples]
  split <;> rfl

theorem captureSnapshot_withSamples (p : Position) :
    captureSnapshot p (withSamples v s) = withSamples v (captureSnapshot p s) := by
  have hfirst : (withSamples v s).cfg.firstBlockSnapshot = s.cfg.firstBlockSnapshot := rfl
  unfold captureSnapshot
  rw [hfirst]
  split
  · rfl
  · split <;> rfl
  · rfl

theorem captureArm_withSamples (p : Position) (d ped : Bool) :
    captureArm p d ped (withSamples v s) = withSamples v (captureArm p d ped s) := by
  have hsnap : (withSamples v s).snap = s.snap := rfl
  rw [captureArm_eq, captureArm_eq, hsnap, keyTransition_withSamples, pedalSlot_withSamples]
  split
  · rfl
  · split <;> rfl

theorem capture_withSamples (p : Position) (d ped : Bool) :
    capture p d ped (withSamples v s) = withSamples v (capture p d ped s) := by
  have hstore : ∀ t, bitStore (blockOf p) (bitOf p) d (withSamples v t) =
      withSamples v (bitStore (blockOf p) (bitOf p) d t) := fun _ => rfl
  unfold capture
  rw [captureSnapshot_withSamples, hstore, captureArm_withSamples]

theorem serviceAt_withSamples (p : Position) (d ped : Bool) :
    serviceAt p d ped (withSamples v s) = withSamples v (serviceAt p d ped s) := by
  unfold serviceAt
  rw [capture_withSamples]
  rfl

theorem syncExit_withSamples (r d ped : Bool) :
    syncExit r d ped (withSamples v s) = withSamples v (syncExit r d ped s) := by
  have hswitch : (withSamples v s).cfg.syncExitServicesClock = s.cfg.syncExitServicesClock := rfl
  have hpos : setPos 1 (withSamples v s) = withSamples v (setPos 1 s) := rfl
  unfold syncExit
  rw [hswitch, hpos, serviceAt_withSamples]
  split <;> rfl

theorem txSched_withSamples (r : Bool) : txSched r (withSamples v s) = withSamples v (txSched r s) := by
  have hgate : gateOpen (withSamples v s) = gateOpen s := rfl
  have hempty : (withSamples v s).rd = (withSamples v s).wr ↔ s.rd = s.wr := Iff.rfl
  simp only [txSched_eq, hgate, hempty]
  split
  · split <;> rfl
  · rfl

end

/-! The pedal bit -/

/-- R104: the pedal bit is an operand of the arm at 64 alone. -/
theorem capture_pedal_unread {p : Position} (h : p ≠ 64) (d ped ped' : Bool) (s : State) :
    capture p d ped s = capture p d ped' s := by
  unfold capture
  rw [captureArm_eq, captureArm_eq, if_neg h, if_neg h]

theorem serviceAt_pedal_unread {p : Position} (h : p ≠ 64) (d ped ped' : Bool) (s : State) :
    serviceAt p d ped s = serviceAt p d ped' s := by
  unfold serviceAt
  rw [capture_pedal_unread h d ped ped']

theorem syncExit_pedal_unread (r d ped ped' : Bool) (s : State) : syncExit r d ped s = syncExit r d ped' s := by
  unfold syncExit
  rw [serviceAt_pedal_unread (by decide) d ped ped']

/-- Two samples of the same lines leave states that differ in the wires alone. -/
theorem sampled_of_same_lines {w w' : In5} (h : inLines w' = inLines w) (s : State) :
    ∃ v, sampled w' s = withSamples v (sampled w s) := by
  refine ⟨(sampled w' s).wires, ?_⟩
  rw [sampled_frame w' s, sampled_frame w s, sampled_wires, sampled_wires, h]
  rfl

theorem sampledPart_of_same_lines {w w' : In5} (h : inLines w' = inLines w) {s : State} (h64 : s.pos ≠ 64) :
    ∃ v, sampledPart w' s = withSamples v (sampledPart w s) := by
  obtain ⟨v, hv⟩ := sampled_of_same_lines h s
  have hbit : ∀ k < 3, w'.getLsbD k = w.getLsbD k := fun k hk => by
    rw [← inLines_bit w' k hk, h, inLines_bit w k hk]
  have hdata : inData w' = inData w := hbit 1 (by decide)
  refine ⟨v, ?_⟩
  unfold sampledPart
  rw [hbit 0 (by decide), hbit 2 (by decide), hdata, syncExit_pedal_unread _ _ _ (pedalBit s.cfg w),
    serviceAt_pedal_unread h64 _ _ (pedalBit s.cfg w), hv, syncExit_withSamples, serviceAt_withSamples]
  split
  · split <;> rfl
  · split <;> rfl

theorem iteration_of_same_lines {w w' : In5} (h : inLines w' = inLines w) (hready : inReady w' = inReady w)
    {s : State} (ha : Admitted s) (h64 : s.pos ≠ 64) :
    ∃ v, iteration w' s = withSamples v (iteration w s) := by
  obtain ⟨v, hv⟩ := sampledPart_of_same_lines h h64
  have hprev : ∀ v t, prevUpdate (inLines w) (withSamples v t) = withSamples v (prevUpdate (inLines w) t) :=
    fun _ _ => rfl
  exact ⟨v, by rw [iteration_eq w' s ha.pos, iteration_eq w s ha.pos, hv, h, hready, hprev, txSched_withSamples]⟩

/-- Settles O14: the two words give the lines and the ready level alike. -/
theorem pedalLineMattersAtPosition64Only : Obligations.PedalLineMattersAtPosition64Only := by
  intro s t u c d y r _ h64 ht hu
  obtain ⟨ha, rfl⟩ := exec_iteration_eq_next ht
  obtain ⟨-, rfl⟩ := exec_iteration_eq_next hu
  have hwords : ∀ r y d c : Bool,
      inLines (BitVec.ofBool r ++ 1#1 ++ BitVec.ofBool y ++ BitVec.ofBool d ++ BitVec.ofBool c) =
        inLines (BitVec.ofBool r ++ 0#1 ++ BitVec.ofBool y ++ BitVec.ofBool d ++ BitVec.ofBool c) ∧
      inReady (BitVec.ofBool r ++ 1#1 ++ BitVec.ofBool y ++ BitVec.ofBool d ++ BitVec.ofBool c) =
        inReady (BitVec.ofBool r ++ 0#1 ++ BitVec.ofBool y ++ BitVec.ofBool d ++ BitVec.ofBool c) := by
    decide
  obtain ⟨hlines, hready⟩ := hwords r y d c
  obtain ⟨v, hv⟩ := iteration_of_same_lines hlines hready ha h64
  rw [hv]
  rfl

end Sys2Proof.Machine
end

section
/-! SUPPORT. The note of a position (spec/42_note_mapper.md R120): which positions have a given note, and the statements
of the Note Mapper. -/

namespace Sys2Proof.Machine

/-- The two formulas of R120 read backwards. Offsets from the transpose are even in the low bank and odd in the high. -/
theorem note_eq_some_iff {p : Position} {t n : Int} :
    note p t = some n ↔
      (1 ≤ p.toNat ∧ p.toNat ≤ 31 ∧ n = t + 98 - 2 * p.toNat) ∨
      (34 ≤ p.toNat ∧ p.toNat ≤ 63 ∧ n = t + 101 - 2 * (p.toNat - 31)) := by
  by_cases hlo : 1 ≤ p.toNat ∧ p.toNat ≤ 31
  · rw [note_lo hlo.1 hlo.2, Option.some_inj]
    omega
  · by_cases hhi : 34 ≤ p.toNat ∧ p.toNat ≤ 63
    · rw [note_hi hhi.1 hhi.2, Option.some_inj]
      omega
    · rw [note_none hlo hhi]
      simp only [reduceCtorEq, false_iff]
      omega

/-- Within a bank the formula is linear in the position; across banks the parities differ. -/
theorem note_injective {p q : Position} {t n : Int} (hp : note p t = some n) (hq : note q t = some n) : p = q := by
  have hpos := note_eq_some_iff.1 hp
  have hpos' := note_eq_some_iff.1 hq
  exact BitVec.eq_of_toNat_eq (by omega)

/-- The position of the note `m` above the transpose: position 31 has 36, position 1 has 96, and the odd notes between
lie at 63 down to 34. -/
def positionOfOffset (m : Nat) : Position :=
  if m % 2 = 0 then BitVec.ofNat 7 ((98 - m) / 2) else BitVec.ofNat 7 (31 + (101 - m) / 2)

theorem note_positionOfOffset {m : Nat} (hlo : 36 ≤ m) (hhi : m ≤ 96) (t : Int) :
    note (positionOfOffset m) t = some (t + m) := by
  rw [note_eq_some_iff]
  unfold positionOfOffset
  split
  · left
    rw [BitVec.toNat_ofNat, Nat.mod_eq_of_lt (by omega)]
    omega
  · right
    rw [BitVec.toNat_ofNat, Nat.mod_eq_of_lt (by omega)]
    omega

/-- Settles O47: each branch is the model's own formula with its base note written out. -/
theorem noteFollowsTheTwoFormulas : Obligations.NoteFollowsTheTwoFormulas := by
  intro s p ha
  have hexec : exec (.note p) s = .next (setResult (.note (note p s.cfg.transpose)) s) := proceed_of_admitted ha _
  rw [hexec]
  split_ifs with hlo hhi
  · rw [note_lo hlo.1 hlo.2]
    rfl
  · rw [note_hi hhi.1 hhi.2]
    rfl
  · rw [note_none hlo hhi]
    rfl

/-- Settles O48: the note is the value of a 7-bit word, and that word is its operand. -/
theorem notesFitTheMessage : Obligations.NotesFitTheMessage := by
  intro c p k hc hk
  obtain ⟨n, rfl⟩ := note_bits hc hk
  have hlt : n.toNat < 128 := n.isLt
  refine ⟨by omega, by omega, ?_⟩
  rw [noteBits_of_toNat n _ rfl]

/-- Settles O49: the inverse of the two formulas names the position of each note. -/
theorem notesAreOneToOne : Obligations.NotesAreOneToOne := by
  refine ⟨fun _ _ _ _ => note_injective, fun t n hlo hhi => ?_⟩
  obtain ⟨m, hm⟩ := Int.eq_ofNat_of_zero_le (a := n - t) (by omega)
  have hn : n = t + m := by omega
  subst hn
  exact ⟨positionOfOffset m, note_positionOfOffset (by omega) (by omega) t⟩

end Sys2Proof.Machine
end

section
/-! SUPPORT. The packings of the Message Encoder, their words, and the statements of the Message Encoder
(spec/43_message_encoder.md R130 to R133). -/

namespace Sys2Proof.Machine

/-- A MSG24 word by its four parts; the first data byte of NOTE_ON and NOTE_OFF is a 0 bit and the note (R62, R63). -/
theorem decode_msg24_setWidth {a c : Byte} {n : BitVec 7} {i : Instr}
    (h : decodeMsg24 (a ++ 0#1 ++ n ++ c) = some i) : decode .msg24 [a, n.setWidth 8, c] = .ok i := by
  have hbyte : n.setWidth 8 = 0#1 ++ n := by
    rw [← ofNat_toNat_eq_append, BitVec.ofNat_toNat]
  have hword : a ++ 0#1 ++ n = a ++ (0#1 ++ n) := BitVec.append_assoc
  rw [hbyte, decode_msg24_iff, ← hword]
  exact h

/-- The bytes of MSG_NOTE_ON are the word NOTE_ON. -/
theorem decode_msgNoteOn (n : BitVec 7) : decode .msg24 (msgNoteOn n).bytes = .ok (.noteOn n) :=
  decode_msg24_setWidth (decodeMsg24_noteOn n)

/-- The bytes of MSG_NOTE_OFF are the word NOTE_OFF. -/
theorem decode_msgNoteOff (n : BitVec 7) : decode .msg24 (msgNoteOff n).bytes = .ok (.noteOff n) :=
  decode_msg24_setWidth (decodeMsg24_noteOff n)

/-- The bytes of MSG_CC_DAMPER are a word CC_DAMPER; P = 1 is the pedal released. -/
theorem decode_msgCcDamper (ped : Bool) :
    decode .msg24 (msgCcDamper ped).bytes = .ok (if ped then .ccDamperReleased else .ccDamperPressed) := by
  revert ped
  decide

/-- Settles O50: each operation returns its packing and changes nothing else. -/
theorem messagesHaveTheirBytes : Obligations.MessagesHaveTheirBytes :=
  fun _ n ped ha => ⟨proceed_of_admitted ha _, proceed_of_admitted ha _, proceed_of_admitted ha _,
    decode_msgNoteOn n, decode_msgNoteOff n, decode_msgCcDamper ped⟩

/-- Settles O51. -/
theorem messageIsQueuedWholeOrDropped : Obligations.MessageIsQueuedWholeOrDropped := by
  intro s b0 b1 b2 ha
  obtain ⟨hoffered, hframe, -⟩ := enqueueMsg_spec ⟨b0, b1, b2⟩ s ha
  exact ⟨enqueueMsg ⟨b0, b1, b2⟩ s, proceed_of_admitted ha _, hoffered, hframe⟩

end Sys2Proof.Machine
end

section
/-! SUPPORT. Each operation of the Output Queue on either side of its guard, runs of ENQUEUE and of DEQUEUE, and
the statements of the Output Queue (spec/44_output_queue.md R141 to R147). -/

namespace Sys2Proof.Machine

/-! The guards and the bytes queued. -/

theorem queueFull_eq_decide {s : State} (ha : Admitted s) :
    queueFull s = decide (queueCount s = s.cfg.cap - 1) := by
  rw [Bool.eq_iff_iff, queueFull_iff s ha, decide_eq_true_iff]

theorem queueEmpty_eq_decide {s : State} (ha : Admitted s) : queueEmpty s = decide (queueCount s = 0) := by
  rw [Bool.eq_iff_iff, queueEmpty_iff s ha, decide_eq_true_iff]

/-- FREE and FULL agree on whether a byte fits. -/
theorem queueFull_eq_false_iff {s : State} (ha : Admitted s) : queueFull s = false ↔ 0 < queueFree s := by
  have hlt := (queueCount_spec s ha).1
  rw [Bool.eq_false_iff, ne_eq, queueFull_iff s ha]
  unfold queueFree
  omega

theorem liveBytes_eq_nil_iff {s : State} (ha : Admitted s) : liveBytes s = [] ↔ s.rd = s.wr := by
  rw [← List.length_eq_zero_iff, liveBytes_length, ← queueEmpty_iff s ha]
  exact beq_iff_eq

@[simp] theorem liveBytes_setResult (r : Result) (s : State) : liveBytes (setResult r s) = liveBytes s :=
  liveBytes_congr rfl rfl rfl rfl

theorem Admitted.setResult {s : State} (ha : Admitted s) (r : Result) : Admitted (setResult r s) :=
  ha.of_eq rfl ha.pos ha.wr ha.rd

/-! ENQUEUE and DEQUEUE on either side of their guard (R144, R145). -/

theorem exec_enqueue_of_full {s : State} (v : Byte) (ha : Admitted s) (hfull : queueFull s = true) :
    exec (.enqueue v) s = .next (setResult .fail s) := by
  have hexec : exec (.enqueue v) s = .next (setResult (enqueueResult s) (enqueue v s)) := proceed_of_admitted ha _
  simpa [enqueueResult, enqueue, hfull] using hexec

theorem exec_enqueue_of_room {s : State} (v : Byte) (ha : Admitted s) (hroom : queueFull s = false) :
    exec (.enqueue v) s = .next (setResult .ok (enqueue v s)) := by
  have hexec : exec (.enqueue v) s = .next (setResult (enqueueResult s) (enqueue v s)) := proceed_of_admitted ha _
  simpa [enqueueResult, hroom] using hexec

theorem exec_dequeue_of_empty {s : State} (ha : Admitted s) (he : s.rd = s.wr) :
    exec .dequeue s = .next (setResult .fail (raise .queueEmpty s)) := by
  have hexec : exec .dequeue s = .next (setResult (dequeueResult s) (dequeue s)) := proceed_of_admitted ha _
  simpa [dequeueResult, dequeue, queueEmpty, he] using hexec

theorem exec_dequeue_of_nonempty {s : State} (ha : Admitted s) (hne : s.rd ≠ s.wr) :
    exec .dequeue s = .next (setResult (.byte (memRead s s.rd)) (dequeue s)) := by
  have hexec : exec .dequeue s = .next (setResult (dequeueResult s) (dequeue s)) := proceed_of_admitted ha _
  simpa [dequeueResult, queueEmpty, hne] using hexec

/-! Runs of them (R147). -/

/-- As many ENQUEUE as there is room for queue every byte, in order, behind what was queued. -/
theorem execAll_enqueue (vs : List Byte) {s : State} (ha : Admitted s) (hfit : vs.length ≤ queueFree s) :
    ∃ t, execAll (vs.map .enqueue) s = .next t ∧ Admitted t ∧ liveBytes t = liveBytes s ++ vs := by
  induction vs generalizing s with
  | nil => exact ⟨s, rfl, ha, (List.append_nil _).symm⟩
  | cons v vs ih =>
    rw [List.length_cons] at hfit
    have hfree : 0 < queueFree s := by omega
    obtain ⟨-, -, hfree', hlive, ha'⟩ := enqueue_of_room v s ha hfree
    have hfit' : vs.length ≤ queueFree (setResult .ok (enqueue v s)) := by
      show vs.length ≤ queueFree (enqueue v s)
      omega
    obtain ⟨t, hrun, hat, htlive⟩ := ih (ha'.setResult .ok) hfit'
    refine ⟨t, ?_, hat, ?_⟩
    · rw [List.map_cons, execAll, exec_enqueue_of_room v ha ((queueFull_eq_false_iff ha).2 hfree)]
      exact hrun
    · rw [htlive, liveBytes_setResult, hlive, List.append_assoc, List.singleton_append]

/-- As many DEQUEUE as there are bytes queued return them, oldest first. -/
theorem drain_liveBytes {vs : List Byte} {s : State} (ha : Admitted s) (hlive : liveBytes s = vs) :
    drain vs.length s = some vs := by
  induction vs generalizing s with
  | nil => rfl
  | cons v vs ih =>
    have hne : s.rd ≠ s.wr := fun he => by simp [(liveBytes_eq_nil_iff ha).2 he] at hlive
    obtain ⟨-, hcons, ha'⟩ := dequeue_of_nonempty s ha hne
    obtain ⟨hv, hvs⟩ := List.cons.inj (hcons.symm.trans hlive)
    have hrest := ih (ha'.setResult (.byte v)) ((liveBytes_setResult _ _).trans hvs)
    rw [List.length_cons, drain, exec_dequeue_of_nonempty ha hne, hv]
    simp [hrest]

/-! The statements. -/

/-- Settles O53, by FULL. -/
theorem enqueueStoresAtTheWriteCursor : Obligations.EnqueueStoresAtTheWriteCursor := by
  intro s v ha
  refine ⟨fun hfull => exec_enqueue_of_full v ha (beq_iff_eq.2 hfull), fun hne => ?_⟩
  have hroom : queueFull s = false := beq_eq_false_iff_ne.2 hne
  obtain ⟨hstore, -, -, hlive, -⟩ := enqueue_of_room v s ha ((queueFull_eq_false_iff ha).1 hroom)
  obtain ⟨hframe, hslots⟩ := enqueue_frame v s
  refine ⟨setResult .ok (enqueue v s), exec_enqueue_of_room v ha hroom, ?_, ?_, hslots, ?_, ?_⟩
  · rw [setResult_wr, hstore]
    rfl
  · have hread : memRead (memWrite s.wr v s) s.wr = v := by rw [memRead_memWrite, if_pos rfl]
    rw [hstore]
    exact hread
  · rw [liveBytes_setResult, hlive]
  · exact congrArg (setResult .ok) hframe

/-- Settles O54, by EMPTY. -/
theorem dequeueReturnsTheOldestByte : Obligations.DequeueReturnsTheOldestByte := by
  intro s ha
  refine ⟨fun he => exec_dequeue_of_empty ha he, fun hne => ?_⟩
  obtain ⟨hadvance, hlive, -⟩ := dequeue_of_nonempty s ha hne
  refine ⟨_, exec_dequeue_of_nonempty ha hne, ?_, ?_⟩
  · rw [liveBytes_setResult]
    exact hlive
  · rw [hadvance]
    rfl

/-- Settles O55: the distance is COUNT itself. -/
theorem queueMeasuresAgree : Obligations.QueueMeasuresAgree := by
  intro s ha
  obtain ⟨hlt, hreach⟩ := queueCount_spec s ha
  refine ⟨queueCount s, hlt, hreach, proceed_of_admitted ha _, proceed_of_admitted ha _, ?_, ?_⟩
  · rw [← queueFull_eq_decide ha]
    exact proceed_of_admitted ha _
  · rw [← queueEmpty_eq_decide ha]
    exact proceed_of_admitted ha _

/-- Settles O56: the bytes enqueued are all that is queued, and are drained as such. -/
theorem queueIsFirstInFirstOut : Obligations.QueueIsFirstInFirstOut := by
  intro s vs ha he hlen
  have hnil : liveBytes s = [] := (liveBytes_eq_nil_iff ha).2 he
  have hfit : vs.length ≤ queueFree s := by
    rwa [queueFree, ← liveBytes_length, hnil]
  obtain ⟨t, hrun, hat, hlive⟩ := execAll_enqueue vs ha hfit
  rw [hnil, List.nil_append] at hlive
  exact ⟨t, hrun, hlive, drain_liveBytes hat hlive⟩

end Sys2Proof.Machine
end

section
/-! SUPPORT. What each row of the Transmit Scheduler writes, that the sampler part of an iteration hands over nothing,
and the statements of the Transmit Scheduler (spec/45_transmit_scheduler.md R155 to R160). -/

namespace Sys2Proof.Machine

/-! The rows (R156 to R159). -/

/-- Everything TX_BYTE does, as one record update. -/
theorem txByte_eq (s : State) : txByte s = { s with
    rd := nextCursor s s.rd, txData := memRead s s.rd, txWr := true, txLog := s.txLog ++ [memRead s s.rd] } := rfl

/-- Everything TX_NOT_READY and TX_GATED do, as one record update. -/
theorem portQuiet_eq (s : State) : portQuiet s = { s with
    txData := Config.freeTxData s.tick, txWr := false } := rfl

/-- Settles O58. -/
theorem txByteHandsOverTheOldestByte : Obligations.TxByteHandsOverTheOldestByte := by
  intro s ha
  have hexec : exec .txByte s = .next (txByte s) := proceed_of_admitted ha _
  rw [hexec, txByte_eq]
  rfl

/-- Settles O59. -/
theorem txEventClearEndsABurst : Obligations.TxEventClearEndsABurst := by
  intro s ha
  refine ⟨txEventClear s, proceed_of_admitted ha _, ?_⟩
  rw [txEventClear_eq]
  rfl

/-- Settles O60: both rows are the quiet port. -/
theorem gatedAndNotReadySendNothing : Obligations.GatedAndNotReadySendNothing := by
  intro s i ev id nz r ne ha hi
  refine ⟨portQuiet s, ?_, by rw [portQuiet_eq]⟩
  rcases hi with rfl | rfl
  · exact proceed_of_admitted ha _
  · exact proceed_of_admitted ha _

/-! TX_SCHED (R155). -/

/-- The scheduler's gate and the ready level, as the statements write them. -/
theorem gateOpen_and_ready_iff (s : State) (r : Bool) :
    (gateOpen s = true ∧ r = true) ↔ (s.event = true ∧ s.idle = true ∧ s.pos ≠ 0 ∧ r = true) := by
  rw [gateOpen_iff, and_assoc, and_assoc]

/-- TX_SCHED either leaves the port quiet, TXLOG and RD as they were, or it is TX_BYTE behind an open gate with the
transmitter ready. -/
theorem txSched_quiet_or_txByte (r : Bool) (s : State) :
    ((txSched r s).txWr = false ∧ (txSched r s).txLog = s.txLog ∧ (txSched r s).rd = s.rd) ∨
      (txSched r s = txByte s ∧ gateOpen s = true ∧ r = true) := by
  by_cases hopen : gateOpen s = true ∧ r = true
  · rw [txSched_eq, if_pos hopen]
    by_cases hempty : s.rd = s.wr
    · rw [if_pos hempty, txEventClear_eq]
      exact .inl ⟨rfl, rfl, rfl⟩
    · rw [if_neg hempty]
      exact .inr ⟨rfl, hopen⟩
  · rw [txSched_of_closed hopen]
    exact .inl ⟨rfl, rfl, rfl⟩

/-- Settles O57, by the gate and then by whether the queue is empty. -/
theorem schedulerFollowsItsGate : Obligations.SchedulerFollowsItsGate := by
  intro s r ha
  rw [← gateOpen_and_ready_iff]
  refine ⟨txSched r s, proceed_of_admitted ha _, fun hopen => ?_, fun hclosed => ?_⟩
  · rw [txSched_eq, if_pos hopen]
    constructor
    · intro hne
      rw [if_neg hne]
      exact proceed_of_admitted ha _
    · intro hempty
      rw [if_pos hempty]
      exact proceed_of_admitted ha _
  · rw [txSched_of_closed hclosed, portQuiet_eq]

/-! The bytes that leave in an iteration (R160). -/

/-- Nothing is handed over from `s` to `t`: RD and TXLOG stay. -/
def SameSent (s t : State) : Prop := t.rd = s.rd ∧ t.txLog = s.txLog

/-- A capture only offers messages to the queue: what leaves is the scheduler's. -/
theorem serviceAt_sameSent {s : State} (p : Position) (d ped : Bool) (ha : Admitted s) (hp : isPosition p) :
    SameSent s (serviceAt p d ped s) := by
  obtain ⟨_, _, -, hcap⟩ := capture_captured p d ped ha hp
  show SameSent s (capture p d ped s)
  rw [hcap.frame]
  exact ⟨rfl, rfl⟩

theorem syncExit_sameSent {s : State} (r d ped : Bool) (ha : Admitted s) : SameSent s (syncExit r d ped s) := by
  unfold syncExit
  split
  · exact serviceAt_sameSent (s := setPos 1 s) 1 d ped (setPos_one_admitted ha) (by decide)
  · exact ⟨rfl, rfl⟩

/-- Whatever row the sampler selects, it hands over nothing. -/
theorem sampledPart_sameSent (w : In5) {s : State} (ha : Admitted s) : SameSent s (sampledPart w s) := by
  have hsa := sampled_admitted w s ha
  have hs : SameSent s (sampled w s) := ⟨rfl, rfl⟩
  unfold sampledPart
  split
  · split
    · exact syncExit_sameSent (s := sampled w s) _ _ _ hsa
    · exact hs
  · rename_i h0
    split
    · exact serviceAt_sameSent (s := sampled w s) _ _ _ hsa (isPosition_of_ne ha.pos h0)
    · exact hs

/-- Settles O12: a byte leaves through TX_SCHED alone, and there only as TX_BYTE. -/
theorem atMostOneByteLeavesPerIteration : Obligations.AtMostOneByteLeavesPerIteration := by
  intro s t w ha ht
  obtain ⟨-, rfl⟩ := exec_iteration_eq_next ht
  rw [iteration_eq w s ha.pos]
  obtain ⟨hrd, hlog⟩ : SameSent s (prevUpdate (inLines w) (sampledPart w s)) := sampledPart_sameSent w ha
  have hcfg : (prevUpdate (inLines w) (sampledPart w s)).cfg = s.cfg := sampledPart_cfg w s
  generalize prevUpdate (inLines w) (sampledPart w s) = u at hrd hlog hcfg ⊢
  rw [← hrd, ← hlog, ← hcfg]
  rcases txSched_quiet_or_txByte (inReady w) u with hquiet | ⟨hbyte, hgate, hready⟩
  · exact .inl hquiet
  · obtain ⟨hevent, hidle, hpos⟩ := (gateOpen_iff u).1 hgate
    rw [hbyte, txByte_eq]
    exact .inr ⟨rfl, rfl, rfl, rfl, hready, hpos, hevent, hidle⟩

end Sys2Proof.Machine
end

section
/-! SUPPORT. Which states go on, the signals that an iteration can raise, and the line that POS masks: the statements of
the exceptions (spec/60_exceptions.md R167 to R170, R182). -/

namespace Sys2Proof.Machine

/-! Refusals (R167, R182). -/

/-- A guard before `proceed` only adds refusals. -/
theorem guarded_of_not_admitted {c : Prop} [Decidable c] {s : State} (h : ¬ Admitted s) (t : State) (r : Refusal) :
    ∃ r', (if c then proceed s t else .refused r) = .refused r' := by
  split
  · exact proceed_of_not_admitted h t
  · exact ⟨r, rfl⟩

theorem serviceOutcome_of_not_admitted (p : Position) (d ped : Bool) {s : State} (h : ¬ Admitted s) :
    ∃ r, serviceOutcome p d ped s = .refused r := guarded_of_not_admitted h _ _

/-- Every operation is `proceed`, behind a guard or not, or the row that is always refused. -/
theorem exec_of_not_admitted (i : Instr) {s : State} (h : ¬ Admitted s) : ∃ r, exec i s = .refused r := by
  cases i with
  | unreachablePos _ _ => exact ⟨.unreachablePos, rfl⟩
  | capturePedal _ => exact serviceOutcome_of_not_admitted pedalPosition _ _ h
  | captureFiller _ _ | captureKeyHi _ _ | captureKeyLo _ _ | edgeService _ _ =>
    exact serviceOutcome_of_not_admitted _ _ _ h
  | keyTransition _ | capture _ _ _ => exact guarded_of_not_admitted h _ _
  | noteOn _ | noteOff _ | ccDamperReleased | ccDamperPressed | syncExit _ | syncHold _ | noEdge _ _
  | blockSnapshotBlock _ | blockSnapshotFirst | pedalSlot _ | idleMarkKey _ | idleMarkFiller _ | txByte
  | txEventClear | txNotReady _ | txGated _ _ _ _ _ | iteration _ | sample _ | edgeDetect _ | bitStore _ _ _
  | advance | prevUpdate _ | txSched _ | note _ | msgNoteOn _ | msgNoteOff _ | msgCcDamper _ | enqueueMsg _ _ _
  | enqueue _ | dequeue | validKey _ | count | free | full | empty =>
    exact proceed_of_not_admitted h _

/-- Settles O18. -/
theorem illFormedStatesAreRefused : Obligations.IllFormedStatesAreRefused :=
  fun i _ h => ⟨exec_of_not_admitted i h, step_of_not_admitted h⟩

/-- In an admitted state every step has a next state, an iteration or a RESET. -/
theorem step_of_admitted {s : State} (h : Admitted s) : ∃ t, step s = .next t := by
  have ht : Admitted (takeStimulus s) := takeStimulus_admitted h
  unfold step
  cases nextStimulus s with
  | levels w => exact ⟨_, proceed_of_admitted ht _⟩
  | reset => exact ⟨_, proceed_of_admitted ht _⟩

/-- Settles O21: of the invariant only admission is needed. -/
theorem everyStepGoesOn : Obligations.EveryStepGoesOn :=
  fun _ h => step_of_admitted h.admitted

/-! The signals of an iteration (R170). QueueFull is raised with bytes queued, QueueEmpty with none. -/

/-- The sampler part as one of two things: it leaves POS at `p`, or it services an edge at `p` with POS at `p`. -/
theorem sampledPart_cases (w : In5) {s : State} (ha : Admitted s) :
    (∃ p, sampledPart w s = setPos p (sampled w s)) ∨
    ∃ p, isPosition p ∧ sampledPart w s = serviceAt p (inData w) (pedalBit s.cfg w) (setPos p (sampled w s)) := by
  unfold sampledPart
  split
  · split
    · unfold syncExit
      split
      · exact .inr ⟨1, by decide, rfl⟩
      · exact .inl ⟨1, rfl⟩
    · exact .inl ⟨s.pos, rfl⟩
  · rename_i h0
    split
    · exact .inr ⟨s.pos, isPosition_of_ne ha.pos h0, rfl⟩
    · exact .inl ⟨s.pos, rfl⟩

/-- No signal, or one QueueFull beside a queue that is not empty. -/
def NoneOrQueueFull (s : State) : Prop :=
  s.wires.signals = [] ∨ ∃ m, s.wires.signals = [.queueFull m] ∧ s.rd ≠ s.wr

/-- A message is dropped, whole or in part, only where bytes are queued: CAP is at least 4. -/
theorem Offered.noneOrQueueFull {m : Message} {s t : State} (h : Offered m s t) (hs : Admitted s) (ht : Admitted t)
    (hnone : s.wires.signals = []) : NoneOrQueueFull t := by
  have hqueued : queueFree s < 3 → s.rd ≠ s.wr := fun hfree hempty => by
    have hcount : queueCount s = 0 := (queueEmpty_iff s hs).1 (beq_iff_eq.2 hempty)
    have hcap : 4 ≤ s.cfg.cap := hs.cap.1
    unfold queueFree at hfree
    omega
  by_cases hroom : 3 ≤ queueFree s
  · obtain ⟨-, -, hsig⟩ := h.room hroom
    exact .inl (hsig.trans hnone)
  · have hfree : queueFree s < 3 := Nat.lt_of_not_le hroom
    refine .inr ⟨m, ?_⟩
    cases hatomic : s.cfg.enqueueAtomic with
    | true =>
      obtain ⟨⟨hwr, hrd, -⟩, hsig⟩ := h.dropped hfree hatomic
      exact ⟨by rw [hsig, hnone]; rfl, by rw [hwr, hrd]; exact hqueued hfree⟩
    | false =>
      obtain ⟨-, hlive, hsig⟩ := h.partly hfree hatomic
      refine ⟨by rw [hsig, hnone]; rfl, fun hempty => hqueued hfree ?_⟩
      rw [(liveBytes_eq_nil_iff ht).2 hempty] at hlive
      exact (liveBytes_eq_nil_iff hs).1 (List.append_eq_nil_iff.1 hlive.symm).1

/-- A capture offers one message at most. -/
theorem serviceAt_noneOrQueueFull {s : State} (p : Position) (d ped : Bool) (ha : Admitted s) (hp : isPosition p)
    (hnone : s.wires.signals = []) : NoneOrQueueFull (serviceAt p d ped s) := by
  obtain ⟨_, _, -, hcap⟩ := capture_captured p d ped ha hp
  show NoneOrQueueFull (capture p d ped s)
  rcases hcap.arms with ⟨-, -, _, -, hoffer, -⟩ | ⟨-, -, (⟨-, e⟩ | ⟨-, hoffer, -⟩)⟩ | ⟨-, -, e⟩
  · exact hoffer.noneOrQueueFull ha hcap.admitted hnone
  · exact .inl (by rw [e]; exact hnone)
  · exact hoffer.noneOrQueueFull ha hcap.admitted hnone
  · exact .inl (by rw [e]; exact hnone)

theorem sampledPart_noneOrQueueFull (w : In5) {s : State} (ha : Admitted s) : NoneOrQueueFull (sampledPart w s) := by
  rcases sampledPart_cases w ha with ⟨p, e⟩ | ⟨p, hp, e⟩
  · rw [e]
    exact .inl rfl
  · rw [e]
    exact serviceAt_noneOrQueueFull p _ _ (ha.of_eq rfl hp.2 ha.wr ha.rd) hp rfl

/-- TX_SCHED raises QueueEmpty only on an empty queue, where no QueueFull stands. -/
theorem txSched_signals_length (r : Bool) {s : State} (h : NoneOrQueueFull s) :
    (txSched r s).wires.signals.length ≤ 1 := by
  have hone : s.wires.signals.length ≤ 1 := by
    rcases h with e | ⟨m, e, -⟩ <;> simp [e]
  rw [txSched_eq]
  split
  · split
    · rename_i hempty
      rcases h with e | ⟨-, -, hne⟩
      · simp [txEventClear, e]
      · exact absurd hempty hne
    · exact hone
  · exact hone

/-- Settles O10. -/
theorem iterationRaisesAtMostOneSignal : Obligations.IterationRaisesAtMostOneSignal := by
  intro s t w ha ht
  obtain ⟨-, rfl⟩ := exec_iteration_eq_next ht
  rw [iteration_eq w s ha.pos]
  have hpart : NoneOrQueueFull (prevUpdate (inLines w) (sampledPart w s)) := sampledPart_noneOrQueueFull w ha
  exact txSched_signals_length _ hpart

/-! The masked line (R169). -/

/-- At POS not 0 the sampler looks at the clock, the data and the pedal; the sync level reaches the wires alone. -/
theorem sampledPart_sync_unread {w w' : In5} {s : State} (h0 : s.pos ≠ 0) (hclock : w'.getLsbD 0 = w.getLsbD 0)
    (hdata : inData w' = inData w) (hpedal : inPedal w' = inPedal w) :
    sampledPart w' s = withSamples (sampled w' s).wires (sampledPart w s) := by
  have hbit : pedalBit s.cfg w' = pedalBit s.cfg w := by
    unfold pedalBit
    rw [hdata, hpedal]
  have hsampled : sampled w' s = withSamples (sampled w' s).wires (sampled w s) := rfl
  rw [sampledPart_of_ne_zero w' h0, sampledPart_of_ne_zero w h0, hclock, hdata, hbit]
  split
  · rw [← serviceAt_withSamples, ← hsampled]
  · exact hsampled

/-- At POS 0 the sampler looks at the sync level; every other level reaches the wires alone. -/
theorem sampledPart_clock_unread {w w' : In5} {s : State} (h0 : s.pos = 0) (hx : s.cfg.syncExitServicesClock = false)
    (hsync : w'.getLsbD 2 = w.getLsbD 2) :
    sampledPart w' s = withSamples (sampled w' s).wires (sampledPart w s) := by
  rw [sampledPart_of_zero w' h0 hx, sampledPart_of_zero w h0 hx, hsync]
  split <;> rfl

theorem txSched_setPrev (r : Bool) (l : Lines) (s : State) : txSched r (setPrev l s) = setPrev l (txSched r s) := by
  have hgate : gateOpen (setPrev l s) = gateOpen s := rfl
  have hempty : (setPrev l s).rd = (setPrev l s).wr ↔ s.rd = s.wr := Iff.rfl
  simp only [txSched_eq, hgate, hempty]
  split
  · split <;> rfl
  · rfl

/-- Two words with the same sampler part, wires apart, and the same ready level leave states that differ in PREV and
the wires alone. -/
theorem iteration_of_same_part {w w' : In5} {s : State} (ha : Admitted s)
    (hpart : sampledPart w' s = withSamples (sampled w' s).wires (sampledPart w s)) (hready : inReady w' = inReady w) :
    iteration w' s = { iteration w s with prev := (iteration w' s).prev, wires := (iteration w' s).wires } := by
  have e : iteration w' s = setPrev (inLines w') (withSamples (sampled w' s).wires (iteration w s)) := by
    have hswap : ∀ v t, prevUpdate (inLines w') (withSamples v t) =
        setPrev (inLines w') (withSamples v (prevUpdate (inLines w) t)) := fun _ _ => rfl
    rw [iteration_eq w' s ha.pos, iteration_eq w s ha.pos, hpart, hready, hswap, txSched_setPrev, txSched_withSamples]
  rw [e]
  rfl

theorem in5Word_sync : ∀ c d y p r : Bool, (in5Word c d y p r).getLsbD 2 = y := by
  decide

theorem in5Word_pedal : ∀ c d y p r : Bool, inPedal (in5Word c d y p r) = p := by
  decide

theorem in5Word_ready : ∀ c d y p r : Bool, inReady (in5Word c d y p r) = r := by
  decide

/-- R84: at POS not 0 the sync level makes no difference. -/
theorem iteration_sync_masked {s : State} (ha : Admitted s) (h0 : s.pos ≠ 0) (c d y y' p r : Bool) :
    let t := iteration (in5Word c d y p r) s
    let u := iteration (in5Word c d y' p r) s
    u = { t with prev := u.prev, wires := u.wires } :=
  iteration_of_same_part ha
    (sampledPart_sync_unread h0 (by simp only [in5Word_clock]) (by simp only [in5Word_data])
      (by simp only [in5Word_pedal]))
    (by simp only [in5Word_ready])

/-- R83 (a): at POS 0 the clock level makes no difference. -/
theorem iteration_clock_masked {s : State} (ha : Admitted s) (h0 : s.pos = 0)
    (hx : s.cfg.syncExitServicesClock = false) (c c' d y p r : Bool) :
    let t := iteration (in5Word c d y p r) s
    let u := iteration (in5Word c' d y p r) s
    u = { t with prev := u.prev, wires := u.wires } :=
  iteration_of_same_part ha (sampledPart_clock_unread h0 hx (by simp only [in5Word_sync]))
    (by simp only [in5Word_ready])

/-- Settles O15: the clause for POS not 0, then the clause for POS 0. -/
theorem positionMasksTheOtherLine : Obligations.PositionMasksTheOtherLine := by
  intro s t u b d p r
  constructor
  · intro h0 ht hu
    obtain ⟨ha, rfl⟩ := exec_iteration_eq_next ht
    obtain ⟨-, rfl⟩ := exec_iteration_eq_next hu
    exact iteration_sync_masked ha h0 b d false true p r
  · intro h0 hx ht hu
    obtain ⟨ha, rfl⟩ := exec_iteration_eq_next ht
    obtain ⟨-, rfl⟩ := exec_iteration_eq_next hu
    exact iteration_clock_masked ha h0 hx false true d b p r

end Sys2Proof.Machine
end

section
/-! SUPPORT. RESET as a move of the trace (spec/70_reset_and_hazards.md R190, spec/60_exceptions.md R182). -/

namespace Sys2Proof.Machine

/-- A step on a RESET move, as `step_of_levels` says it for a levels move. -/
theorem step_of_reset {s : State} {rest : List Stimulus} (h : s.trace = .reset :: rest) :
    step s = resetOutcome { s with trace := rest, tick := s.tick + 1 } := by
  simp [step, nextStimulus, takeStimulus, setTrace, setTick, h]

theorem resetBlock_ktByte (s : State) {b : Nat} (hb : b < 9) : ktByte (resetBlock s) b = 0 :=
  ktByte_of_cleared rfl hb

/-- Settles O17: the move is used up, RESET is admitted, and what it leaves is the table, register by register. -/
theorem resetMoveReturnsToTheTableValues : Obligations.ResetMoveReturnsToTheTableValues := by
  intro s rest ha htrace
  have hmove : Admitted { s with trace := rest, tick := s.tick + 1 } := ha.of_eq rfl ha.pos ha.wr ha.rd
  have hstep : step s = .next (resetBlock { s with trace := rest, tick := s.tick + 1 }) :=
    (step_of_reset htrace).trans (proceed_of_admitted hmove _)
  exact ⟨_, hstep, rfl, rfl, rfl, rfl, fun _ => resetBlock_ktByte _, rfl, rfl, rfl, rfl, rfl, rfl, rfl, rfl⟩

end Sys2Proof.Machine
end
